-- ==== Sys2Proof/Word.lean ====
section
/-! DEFINITION. The word types of the engine: 00_scope.md rules R7, R8 and R10. Every value is unsigned. -/

namespace Sys2Proof

/-- A 32-bit word (40_word_ops.md R100): state, working, schedule and constant words, and every register. -/
abbrev Word := BitVec 32

/-- One byte: what every engine memory access moves (20_memory.md R63). -/
abbrev Byte := BitVec 8

/-- A 64-bit byte address or byte length (00_scope.md R8, ADDR_W and LEN_W). -/
abbrev Addr := BitVec 64

end Sys2Proof
end

