-- ==== Sys2Proof/Config.lean ====
section
/-! DEFINITION. The free values of the model: constants without a body, so that nothing can be proved of the value
of one. Each is applied to the counter `draws` of State (00_scope.md R14, `draw()`), or to an address. See
notes/assumptions/6.md and 3.md. -/

namespace Sys2Proof.Config

/-- A 32-bit value no rule fixes: a HASH register read while BUSY (45_register_access.md R218), WR and W after a
reset (70_reset_and_hazards.md R260). -/
opaque freeWord : Nat → Word

/-- An 8-bit value no rule fixes: an engine read of a raced input byte (20_memory.md R74), BLK after a reset or a
refused read (93_implementation_defined.md I7). -/
opaque freeByte : Nat → Byte

/-- A choice no rule makes: which of two values a raced output byte has (20_memory.md R74). -/
opaque freeBit : Nat → Bool

/-- A 64-bit value no rule fixes: the cursor after a refused read (41_padder.md R128). -/
opaque freeAddr : Nat → Addr

/-- DESIGN CHOICE (safe): what the memory holds at an address nothing has written. notes/assumptions/3.md. -/
opaque initialByte : Addr → Byte

end Sys2Proof.Config
end

