-- ==== Sys2Proof/Syntax.lean ====
section
/-! DEFINITION. The instructions: one constructor for each row of spec/opcode_table.json, whose fields are the bits
the row leaves open (30_encoding.md). A host register access is an instruction of format BUS, an engine micro-step
one of format PHASE. -/

namespace Sys2Proof

/-- The next micro-step (10_state.md R30). The codes 6 and 7 are never reached (30_encoding.md R88). -/
inductive Phase where
  | idle | frame | sched | round | fold | write | unused6 | unused7
deriving DecidableEq, Repr

/-- What OFF[7:2] of an aligned access selects (30_encoding.md R82). The reserved offsets are split as the rows of the
opcode table split them. -/
inductive Slot where
  | id | ctrl | cmd | status
  | srcLo | srcHi | lenLo | lenHi | dstLo | dstHi
  | errAddrLo | errAddrHi
  | rsvd30 (i : Fin 4)
  | hash (i : Fin 8)
  | rsvd60 (i : Fin 8)
  | rsvd80 (i : Fin 32)
deriving DecidableEq, Repr

/-- The words an instruction is given by: a 41-bit bus-transaction word (30_encoding.md R80) or a 3-bit PHASE code
(30_encoding.md R88). There is no other form (R89). -/
inductive Code where
  | bus (word : BitVec 41)
  | phase (code : BitVec 3)
deriving DecidableEq, Repr

/-- Why a code is no instruction. -/
inductive DecodeReject where
  /-- A transaction word with W = 0, OFF aligned and DATA not 0: 30_encoding.md R80 gives a read DATA = 0, so no row
  matches it (notes/assumptions/11.md). -/
  | readCarriesData
deriving DecidableEq, Repr

/-- One constructor per row of spec/opcode_table.json. -/
inductive Instr where
  | rdId
  | wrId (data : Word)
  | rdCtrl
  | wrCtrl (data : Word)
  | rdCmd
  | cmdNop (ignored : BitVec 24)
  | cmdHash (ignored : BitVec 24)
  | cmdIllegal (code : Byte) (ignored : BitVec 24)
  | rdStatus
  | wrStatus (data : Word)
  | rdSrcLo
  | wrSrcLo (data : Word)
  | rdSrcHi
  | wrSrcHi (data : Word)
  | rdLenLo
  | wrLenLo (data : Word)
  | rdLenHi
  | wrLenHi (data : Word)
  | rdDstLo
  | wrDstLo (data : Word)
  | rdDstHi
  | wrDstHi (data : Word)
  | rdErrAddrLo
  | wrErrAddrLo (data : Word)
  | rdErrAddrHi
  | wrErrAddrHi (data : Word)
  | rdHash (i : Fin 8)
  | wrHash (i : Fin 8) (data : Word)
  | rdRsvd30 (i : Fin 4)
  | wrRsvd30 (i : Fin 4) (data : Word)
  | rdRsvd60 (i : Fin 8)
  | wrRsvd60 (i : Fin 8) (data : Word)
  | rdRsvd80 (i : Fin 32)
  | wrRsvd80 (i : Fin 32) (data : Word)
  | misaligned1 (write : Bool) (reg : BitVec 6) (data : Word)
  | misaligned2 (write : Bool) (reg : BitVec 6) (data : Word)
  | misaligned3 (write : Bool) (reg : BitVec 6) (data : Word)
  | idle
  | frame
  | sched
  | round
  | fold
  | write
  | phaseRsvd6
  | phaseRsvd7
deriving DecidableEq, Repr

end Sys2Proof
end

