-- ==== Sys2Proof/Machine/State.lean ====
section
/-! DEFINITION. The state of the machine as plain data (10_state.md), the inputs that drive it, and the reasons a step
stops. What each field is, with its rule and reset value, is listed in INVENTORY.md under State. -/

namespace Sys2Proof.Machine

/-- The reasons a step stops with a fault: none. The engine has no trap (60_exceptions.md R230): every error is an error
completion, which is a next state. Nobody raises a fault, so this is safe. -/
inductive Fault where
deriving DecidableEq, Repr

/-- The reasons a step gives no meaning. All are safe: the run stops where the spec says the model refuses. -/
inductive Refusal where
  /-- Raised by exec's arm of an instruction that has no meaning yet. Safe: nothing is claimed of it. -/
  | notModelled (mnemonic : String)
  /-- Raised by MISALIGNED and by the fetch of a bus access that is narrow or outside the window: "the model refuses it
  (`refuse(misaligned_or_narrow_register_access)`)" (45_register_access.md R222). Safe. -/
  | misalignedOrNarrowRegisterAccess
  /-- Raised by PHASE_RSVD, which every turn runs in a state with PHASE 6 or 7: "a model that finds PHASE in {6, 7} refuses
  the state" (30_encoding.md R88). Safe. -/
  | reservedPhase
  /-- Raised by the fetch of a transaction word with W = 0 and DATA not 0, which matches no row of the opcode table
  (30_encoding.md R80). Safe. -/
  | readWordCarriesData
  /-- Raised by FRAME when it reads an input byte whose reads have side effects: "otherwise the run is refused"
  (92_eei_decisions.md D30, 20_memory.md R67). Safe. -/
  | inputHasReadSideEffects
deriving DecidableEq, Repr

/-- ERRCODE (10_state.md R38). The values 5, 6, 7 are "never produced" and have no constructor
(notes/assumptions/18.md). -/
inductive ErrCode where
  | none | illegalCmd | range | busRead | busWrite
deriving DecidableEq, Repr

/-- The padder's cursor (10_state.md R27). -/
structure Cursor where
  /-- CUR: address of the next unconsumed input byte. -/
  cur : Addr
  /-- REM: count of unconsumed input bytes. -/
  rem : Addr
  /-- LEN_L: original input length, latched at acceptance. -/
  lenL : Addr
  /-- MARKER: the marker byte has been emitted. -/
  marker : Bool
  /-- TRAILER: the length trailer has been emitted. -/
  trailer : Bool
deriving DecidableEq, Repr

/-- The stored fields of STATUS (10_state.md R37). BUSY is not state: it is PHASE != IDLE (R31). -/
structure Status where
  done : Bool
  err : Bool
  ovr : Bool
  errcode : ErrCode
deriving DecidableEq, Repr

/-- The operand registers (10_state.md R39 to R41). -/
structure OperandRegs where
  srcLo : Word
  srcHi : Word
  lenLo : Word
  lenHi : Word
  dstLo : Word
  dstHi : Word
deriving DecidableEq, Repr

/-- The addresses from lo to hi, both included. -/
structure AddrRange where
  lo : Addr
  hi : Addr
deriving DecidableEq, Repr

/-- The open parameters of 00_scope.md R9 as plain data (notes/assumptions/4.md): no step changes them. -/
structure Platform where
  /-- BASE: the address of the register window in the host's address map. -/
  base : Addr
  /-- The addresses whose engine reads the memory refuses: `admitR` is false exactly there. -/
  refusesR : List AddrRange
  /-- The addresses whose engine writes the memory refuses: `admitW` is false exactly there. -/
  refusesW : List AddrRange
  /-- The addresses that are not ordinary memory: their reads have side effects (20_memory.md R67). -/
  readEffects : List AddrRange
deriving DecidableEq, Repr

/-- The memory: what has been written, by address, addresses strictly rising. -/
abbrev Memory := List Host.Cell

/-- One turn of one agent (10_state.md R20, 60_exceptions.md R237). -/
inductive Input where
  /-- A register access of the host, as its transaction word (30_encoding.md R80). -/
  | access (word : BitVec 41)
  /-- A host bus access before decoding: address, size in bits, direction, write data (45_register_access.md R222). -/
  | bus (addr : Addr) (bits : Nat) (write : Bool) (data : Word)
  /-- The engine's turn: one micro-step (44_driver.md R173). -/
  | engine
  /-- A reset (70_reset_and_hazards.md R260). -/
  | reset
  /-- A host agent's byte write, performed at the engine's memory port (20_memory.md R73, R74). -/
  | memStore (addr : Addr) (value : Byte)
  /-- A host agent's byte write, issued and not yet visible at the engine's port (70_reset_and_hazards.md R264). -/
  | memPost (addr : Addr) (value : Byte)
  /-- The oldest issued write becomes visible (performed). -/
  | memPerform
  /-- A host agent's byte read (20_memory.md R73, R74). -/
  | memLoad (addr : Addr)
deriving DecidableEq, Repr

/-- The state of the engine and of what surrounds it. -/
structure State where
  /-- H[0..7] (10_state.md R21). -/
  h : Vector Word 8
  /-- WR[0..7] = a..h (R22). -/
  wr : Vector Word 8
  /-- W[0..63] (R23). -/
  w : Vector Word 64
  /-- BLK[0..63] (R24). -/
  blk : Vector Byte 64
  /-- CUR, REM, LEN_L, MARKER, TRAILER (R27). -/
  cursor : Cursor
  /-- DST_L (R28). -/
  dstL : Addr
  /-- PHASE (R29, R30). -/
  phase : Phase
  /-- T (R29). -/
  t : Fin 64
  /-- KW (R29). -/
  kw : Fin 32
  /-- CTRL.IE (R35). -/
  ie : Bool
  /-- STATUS (R37). -/
  status : Status
  /-- ERRADDR = {ERRADDR_HI, ERRADDR_LO} (R42). -/
  errAddr : Addr
  /-- SRC, LEN, DST (R39 to R41). -/
  ops : OperandRegs
  /-- The memory (20_memory.md R60). -/
  mem : Memory
  /-- BASE, admitR, admitW (00_scope.md R9). -/
  platform : Platform
  /-- The last word answered to a host read, none before the first (notes/assumptions/1.md). -/
  rdata : Option Word
  /-- The answers the host's memory reads got in the last step that gave one, each with its address, none before the first
  (notes/assumptions/9.md). -/
  mdata : List (Addr × Byte)
  /-- The turns to come; when there is none, the engine has the turn (notes/assumptions/2.md). -/
  inputs : List Input
  /-- How many free values have been drawn (notes/assumptions/6.md). -/
  draws : Nat
  /-- Unread input bytes of the running operation whose read is a race (notes/assumptions/8.md). -/
  racedIn : List Addr
  /-- Output bytes a host agent wrote while the running operation had yet to (notes/assumptions/9.md). -/
  racedOut : List Addr
  /-- What the running operation's output bytes held before the engine wrote them, latest first
  (notes/assumptions/9.md). -/
  overwritten : List (Addr × Option Byte)
  /-- The host's reads of output bytes that are answered when the engine has written the byte, or the operation has ended, oldest
  first (notes/assumptions/27.md). -/
  waiting : List Addr
  /-- Host writes issued and not yet visible at the engine's port, oldest first (notes/assumptions/10.md). -/
  posted : List (Addr × Byte)
deriving DecidableEq, Repr

/-- The cursor after reset (10_state.md R27). -/
def Cursor.reset : Cursor := { cur := 0#64, rem := 0#64, lenL := 0#64, marker := false, trailer := false }

/-- STATUS after reset (10_state.md R37). -/
def Status.reset : Status := { done := false, err := false, ovr := false, errcode := .none }

/-- The operand registers after reset (10_state.md R39 to R41). -/
def OperandRegs.reset : OperandRegs :=
  { srcLo := 0#32, srcHi := 0#32, lenLo := 0#32, lenHi := 0#32, dstLo := 0#32, dstHi := 0#32 }

/-- DESIGN CHOICE: the window at 0 and a memory that admits every access (notes/assumptions/4.md). -/
def Platform.reset : Platform := { base := 0#64, refusesR := [], refusesW := [], readEffects := [] }

/-- The machine right after reset (70_reset_and_hazards.md R260). WR, W and BLK are "unspecified" there: 0 is a
DESIGN CHOICE (notes/assumptions/5.md). -/
def State.reset : State where
  h := Vector.replicate 8 0#32
  wr := Vector.replicate 8 0#32
  w := Vector.replicate 64 0#32
  blk := Vector.replicate 64 0#8
  cursor := Cursor.reset
  dstL := 0#64
  phase := .idle
  t := 0
  kw := 0
  ie := false
  status := Status.reset
  errAddr := 0#64
  ops := OperandRegs.reset
  mem := []
  platform := Platform.reset
  rdata := none
  mdata := []
  inputs := []
  draws := 0
  racedIn := []
  racedOut := []
  overwritten := []
  waiting := []
  posted := []

/-- What the engine's reads of a run of bytes give (20_memory.md R61). -/
inductive ReadRun where
  /-- Every byte was read; the counter of free values after it. -/
  | bytes (bs : List Byte) (draws : Nat)
  /-- The memory refused the read at this address (`raise BusRead`). -/
  | refusedAt (addr : Addr) (draws : Nat)
  /-- The byte at this address is not ordinary memory (20_memory.md R67). -/
  | effectAt (addr : Addr)
deriving DecidableEq, Repr

/-- What produce_next_block gives (41_padder.md R120). -/
inductive BlockResult where
  /-- NONE: no more blocks. -/
  | noMore
  /-- BLOCK: the new BLK and cursor. -/
  | block (blk : Vector Byte 64) (cursor : Cursor) (draws : Nat)
  /-- BusRead at this address. -/
  | busRead (addr : Addr) (draws : Nat)
  /-- The input region is not ordinary memory. -/
  | effect
deriving DecidableEq, Repr

/-- What the machine does in its next step. -/
inductive Fetched where
  /-- It runs this instruction in this state. -/
  | run (i : Instr) (s : State)
  /-- The turn is no instruction of the opcode table: it leaves this state. -/
  | moved (s : State)
  /-- The access has no meaning. -/
  | refuse (r : Refusal)
deriving DecidableEq, Repr

end Sys2Proof.Machine
end

