-- ==== Sys2Proof/Machine/Flags.lean ====
section
/-! DEFINITION. STATUS and the interrupt: BUSY, the word a STATUS read answers, W1C, IRQ (10_state.md R31, R37, R45,
R46; 45_register_access.md R200, R201). The engine has no other flags: no condition codes, no carry (R46). -/

namespace Sys2Proof.Machine

/-- BUSY = (PHASE != 0) (10_state.md R31). -/
def State.busy (s : State) : Bool := s.phase != .idle

/-- PHASE is 6 or 7: a code that is never reached (30_encoding.md R88). -/
def State.phaseReserved (s : State) : Bool := s.phase == .unused6 || s.phase == .unused7

/-- IRQ = CTRL.IE & STATUS.DONE, a level (10_state.md R45). -/
def State.irq (s : State) : Bool := s.ie && s.status.done

/-- The 3-bit value of ERRCODE (10_state.md R38). -/
def ErrCode.code : ErrCode → BitVec 3
  | .none => 0#3 | .illegalCmd => 1#3 | .range => 2#3 | .busRead => 3#3 | .busWrite => 4#3

/-- zext_32({ERRCODE (bits 10:8), 0000 (bits 7:4), OVR, ERR, DONE, BUSY}) (45_register_access.md R200). -/
def State.statusWord (s : State) : Word :=
  0#21 ++ (s.status.errcode.code ++ (0#4 ++ (BitVec.ofBool s.status.ovr ++ (BitVec.ofBool s.status.err ++
    (BitVec.ofBool s.status.done ++ BitVec.ofBool s.busy)))))

/-- The W1C write of STATUS (45_register_access.md R201): the host's acknowledgement of a completion, which stands where
a return from an exception would (60_exceptions.md R239). -/
def Status.clear (st : Status) (v : Word) : Status :=
  { done := st.done && !v.getLsbD 1
    err := st.err && !v.getLsbD 2
    ovr := st.ovr && !v.getLsbD 3
    errcode := if v.getLsbD 2 then .none else st.errcode }

/-- What a HASH acceptance clears: DONE, ERR, ERRCODE, not OVR (44_driver.md R171). -/
def Status.accept (st : Status) : Status := { st with done := false, err := false, errcode := .none }

end Sys2Proof.Machine
end

