-- ==== Sys2Proof/Machine/WordOps.lean ====
section
/-! DEFINITION. The 32-bit word operations of 40_word_ops.md (R100 to R113): total pure functions, no flag, no error.
`x + y` on Word is add32 (R101): BitVec addition is modulo 2^32. -/

namespace Sys2Proof.Machine

/-- rotr(x, n) (R102), "defined only for shift counts strictly between 0 and 32": the count carries its bound, so a
rotation by 0 or by 32 or more cannot be written (notes/assumptions/21.md). -/
def rotr (x : Word) (n : Nat) (_bound : 0 < n ∧ n < 32 := by decide) : Word := (x >>> n) ||| (x <<< (32 - n))

/-- s0 (R105). -/
def s0 (x : Word) : Word := rotr x 7 ^^^ rotr x 18 ^^^ (x >>> 3)

/-- s1 (R106). -/
def s1 (x : Word) : Word := rotr x 17 ^^^ rotr x 19 ^^^ (x >>> 10)

/-- S0 (R107). -/
def bigS0 (a : Word) : Word := rotr a 2 ^^^ rotr a 13 ^^^ rotr a 22

/-- S1 (R108). -/
def bigS1 (e : Word) : Word := rotr e 6 ^^^ rotr e 11 ^^^ rotr e 25

/-- ch, choose (R109). -/
def ch (e f g : Word) : Word := (e &&& f) ^^^ (~~~e &&& g)

/-- maj, majority (R110). -/
def maj (a b c : Word) : Word := (a &&& b) ^^^ (a &&& c) ^^^ (b &&& c)

/-- be32, big-endian word assembly (R111): the first byte is the most significant. -/
def be32 (b0 b1 b2 b3 : Byte) : Word := b0 ++ (b1 ++ (b2 ++ b3))

/-- Byte j of be64_bytes(v), most significant first (R112): `v[63-8j : 56-8j]`. -/
def be64Byte (v : BitVec 64) (j : Fin 8) : Byte := v.extractLsb' (56 - 8 * j.val) 8

/-- be64_bytes(v) (R112). -/
def be64Bytes (v : BitVec 64) : List Byte :=
  [be64Byte v 0, be64Byte v 1, be64Byte v 2, be64Byte v 3, be64Byte v 4, be64Byte v 5, be64Byte v 6, be64Byte v 7]

/-- Byte j of word_bytes(x), most significant first (R113): `x[31-8j : 24-8j]`. -/
def wordByte (x : Word) (j : Fin 4) : Byte := x.extractLsb' (24 - 8 * j.val) 8

end Sys2Proof.Machine
end

