-- ==== Sys2Proof/Machine/Operands.lean ====
section
/-! DEFINITION. The operands of HASH (30_encoding.md R85), the range check (44_driver.md R172), the halves of a 64-bit
register, the digest's bytes (44_driver.md R179) and the decoding of a bus address (45_register_access.md R222). -/

namespace Sys2Proof.Machine

/-- SRC = {SRC_HI, SRC_LO} (30_encoding.md R85). -/
def State.src (s : State) : Addr := s.ops.srcHi ++ s.ops.srcLo
/-- LEN = {LEN_HI, LEN_LO}. -/
def State.len (s : State) : Addr := s.ops.lenHi ++ s.ops.lenLo
/-- DST = {DST_HI, DST_LO}. -/
def State.dst (s : State) : Addr := s.ops.dstHi ++ s.ops.dstLo

/-- Bits 31 to 0 of a 64-bit register. -/
def loHalf (a : Addr) : Word := a.extractLsb' 0 32
/-- Bits 63 to 32 of a 64-bit register. -/
def hiHalf (a : Addr) : Word := a.extractLsb' 32 32

/-- range_ok(S, L, D), on exact integers (44_driver.md R172). -/
def rangeOk (s l d : Addr) : Bool := decide (s.toNat + l.toNat ≤ 2 ^ 64) && decide (d.toNat + 32 ≤ 2 ^ 64)

/-- The byte index of digest byte k within its word: k mod 4. -/
def digestLane (k : Fin 32) : Fin 4 := Fin.ofNat 4 (k.val % 4)
/-- The word of digest byte k: k div 4. -/
def digestWord (k : Fin 32) : Fin 8 := Fin.ofNat 8 (k.val / 4)
/-- Digest byte k (44_driver.md R179). -/
def digestByte (h : Vector Word 8) (k : Fin 32) : Byte := wordByte (h.get (digestWord k)) (digestLane k)

/-- Which digest byte is at address a, for an address in DST_L..DST_L+31 (44_driver.md R178). -/
def State.digestIndex (s : State) (a : Addr) : Fin 32 := Fin.ofNat 32 (a.toNat - s.dstL.toNat)

/-- The address of digest byte k (44_driver.md R178). -/
def State.digestAddr (s : State) : Addr := s.dstL + BitVec.ofNat 64 s.kw.val

/-- The address n bytes after a. Below 2^64 it is the exact sum (20_memory.md R71, notes/assumptions/13.md). -/
def addrAfter (a : Addr) (n : Nat) : Addr := a + BitVec.ofNat 64 n

/-- The transaction word of a host bus access, none where it is not an access of this engine: its size is not 32 bits, or
it is outside the 256-byte window at BASE (45_register_access.md R222, 00_scope.md R9). A read's DATA is 0.
DESIGN CHOICE (notes/assumptions/24.md): the addresses are compared as exact integers, so a window whose BASE is within 255
bytes of 2^64 does not wrap to address 0, and its offsets past 2^64 have no address. -/
def transactionWord (base addr : Addr) (bits : Nat) (write : Bool) (data : Word) : Option (BitVec 41) :=
  if bits = 32 ∧ base.toNat ≤ addr.toNat ∧ addr.toNat < base.toNat + windowBytes then
    some (BitVec.ofBool write ++ (BitVec.ofNat 8 (addr.toNat - base.toNat) ++ (if write then data else 0#32)))
  else none

end Sys2Proof.Machine
end

