-- ==== Sys2Proof/Machine/Ops.lean ====
section
/-! DEFINITION. The shared operations: memory and the engine's port (20_memory.md R61, R62), the two ends of a command
(44_driver.md R180, R181), reset (70_reset_and_hazards.md R260) and the host's memory accesses with their races
(20_memory.md R74). -/

namespace Sys2Proof.Machine

/-! ### Memory as a list of cells in one canonical form: addresses strictly rising and below 2^64. An unlisted address
holds no written value (notes/assumptions/3.md). -/

/-- The written byte at an address, none where nothing was written. -/
def Memory.read? : Memory → Nat → Option Byte
  | [], _ => none
  | (b, v) :: rest, a => if a = b then some v else if a < b then none else Memory.read? rest a

/-- The memory with byte v at address a. -/
def Memory.write : Memory → Nat → Byte → Memory
  | [], a, v => [(a, v)]
  | (b, u) :: rest, a, v =>
    if a = b then (a, v) :: rest
    else if a < b then (a, v) :: (b, u) :: rest
    else (b, u) :: Memory.write rest a v

/-- The cells lie strictly above an address, strictly rising, and below 2^64. -/
def Memory.risesFrom : Nat → Memory → Bool
  | _, [] => true
  | lo, (b, _) :: rest => decide (lo ≤ b) && decide (b < 2 ^ 64) && Memory.risesFrom (b + 1) rest

/-- The canonical form. -/
def Memory.wf (m : Memory) : Bool := Memory.risesFrom 0 m

/-- mem_byte(a) (20_memory.md R61): the written byte, or what the memory held before anything was written. -/
def State.byteAt (s : State) (a : Addr) : Byte := (s.mem.read? a.toNat).getD (Config.initialByte a)

/-! ### What the memory system admits (00_scope.md R9). -/

/-- An address lies in a range. -/
def AddrRange.has (r : AddrRange) (a : Addr) : Bool := decide (r.lo ≤ a) && decide (a ≤ r.hi)

/-- admitR(a). -/
def State.admitR (s : State) (a : Addr) : Bool := !s.platform.refusesR.any (·.has a)
/-- admitW(a). -/
def State.admitW (s : State) (a : Addr) : Bool := !s.platform.refusesW.any (·.has a)
/-- Reading address a has side effects: it is not ordinary memory (20_memory.md R67). -/
def State.readHasEffect (s : State) (a : Addr) : Bool := s.platform.readEffects.any (·.has a)

/-- n engine reads from a upwards, each one byte, stopping at the first that is refused (20_memory.md R61, R65). A raced
byte reads as a free value (R74). The counter of free values is d before them. -/
def State.readRun (s : State) : Nat → Addr → Nat → ReadRun
  | 0, _, d => .bytes [] d
  | n + 1, a, d =>
    if s.admitR a then
      if s.readHasEffect a then .effectAt a
      else if s.racedIn.contains a then
        match s.readRun n (addrAfter a 1) (d + 1) with
        | .bytes bs d' => .bytes (Config.freeByte d :: bs) d'
        | r => r
      else
        match s.readRun n (addrAfter a 1) d with
        | .bytes bs d' => .bytes (s.byteAt a :: bs) d'
        | r => r
    else .refusedAt a d

/-! ### Answers. -/

/-- `rdata <- v`: what a host read returns (45_register_access.md). -/
def State.answer (s : State) (v : Word) : State := { s with rdata := some v }

/-- `rdata <- draw()` (00_scope.md R14). -/
def State.answerDraw (s : State) : State :=
  { s with rdata := some (Config.freeWord s.draws), draws := s.draws + 1 }

/-- A host memory read of address a gets v. -/
def State.answerByte (s : State) (a : Addr) (v : Byte) : State := { s with mdata := [(a, v)] }

/-- A host memory read of address a gets v, one free choice made. -/
def State.answerByteDraw (s : State) (a : Addr) (v : Byte) : State :=
  { s with mdata := [(a, v)], draws := s.draws + 1 }

/-- A host memory read of address a waits for the engine's write, one free choice made (notes/assumptions/27.md). -/
def State.waitByte (s : State) (a : Addr) : State := { s with waiting := s.waiting ++ [a], draws := s.draws + 1 }

/-- The reads that wait for address a get what the memory holds there. -/
def State.answerWritten (s : State) (a : Addr) : State :=
  { s with
    mdata := if s.waiting.contains a then [(a, s.byteAt a)] else s.mdata
    waiting := s.waiting.filter (· != a) }

/-- The operation ends with bytes unwritten: the reads that wait get what the memory holds (notes/assumptions/27.md). -/
def State.answerWaiting (s : State) : State :=
  { s with
    mdata := if s.waiting.isEmpty then s.mdata else s.waiting.map fun a => (a, s.byteAt a)
    waiting := [] }

/-! ### The ends of a command: what takes an exception's place (60_exceptions.md R230, R238). -/

/-- complete_ok() (44_driver.md R180). -/
def completeOk (s : State) : State :=
  { s with phase := .idle, status := { s.status with done := true } }

/-- complete_error(code, addr) (44_driver.md R181). -/
def completeError (s : State) (code : ErrCode) (addr : Addr) : State :=
  { s with phase := .idle, status := { s.status with done := true, err := true, errcode := code }, errAddr := addr }

/-- The host acknowledges a completion (60_exceptions.md R239): the W1C write of STATUS. -/
def acknowledge (s : State) (v : Word) : State := { s with status := s.status.clear v }

/-- A command while BUSY is dropped: only OVR changes (45_register_access.md R199). -/
def overrun (s : State) : State := { s with status := { s.status with ovr := true } }

/-! ### Free contents. -/

/-- A word vector no rule fixes. -/
@[irreducible] def freeWords (n d : Nat) : Vector Word n := Vector.ofFn fun i => Config.freeWord (d + i.val)
/-- A block no rule fixes. -/
@[irreducible] def freeBlock (d : Nat) : Vector Byte 64 := Vector.ofFn fun i => Config.freeByte (d + i.val)

/-- BLK and the cursor after a refused read: "irrelevant" (41_padder.md R128), "any value"
(93_implementation_defined.md I7). LEN_L is not among what the padder writes (R120). -/
def afterRefusedRead (s : State) (d : Nat) : State :=
  { s with
    blk := freeBlock d
    cursor := { s.cursor with cur := Config.freeAddr d, rem := Config.freeAddr (d + 1)
                              marker := Config.freeBit d, trailer := Config.freeBit (d + 1) }
    draws := d + 64 }

/-- Reset (70_reset_and_hazards.md R260): every piece of the engine's state takes its reset value, a running operation is
abandoned, no memory access of the engine is made (R262), and a host read that waits gets the byte there (notes/assumptions/27.md).
WR, W and BLK become free values (notes/assumptions/5.md). -/
def resetEngine (s : State) : State :=
  { s.answerWaiting with
    h := Vector.replicate 8 0#32
    wr := freeWords 8 s.draws
    w := freeWords 64 (s.draws + 8)
    blk := freeBlock s.draws
    cursor := Cursor.reset
    dstL := 0#64
    phase := .idle
    t := 0
    kw := 0
    ie := false
    status := Status.reset
    errAddr := 0#64
    ops := OperandRegs.reset
    draws := s.draws + 72
    racedIn := []
    racedOut := []
    overwritten := [] }

/-! ### The host's memory accesses (20_memory.md R73, R74; 70_reset_and_hazards.md R264 to R266). DESIGN CHOICE: they reach the
memory at every address, one inside the register window at BASE included (notes/assumptions/26.md). -/

/-- An address is one of the n from lo upwards, on exact integers. -/
def within (lo : Addr) (n : Nat) (a : Addr) : Bool := decide (lo.toNat ≤ a.toNat) && decide (a.toNat < lo.toNat + n)

/-- An input byte the running operation has yet to read: those from CUR on (20_memory.md R65, each is read once). -/
def State.unreadInput (s : State) (a : Addr) : Bool := s.busy && within s.cursor.cur s.cursor.rem.toNat a

/-- A byte of DST..DST+31 of the running operation. -/
def State.inOutput (s : State) (a : Addr) : Bool := s.busy && within s.dstL 32 a

/-- What the address held before the running operation's engine wrote it, none where it has not. -/
def State.oldOutput (s : State) (a : Addr) : Option (Option Byte) := s.overwritten.lookup a

/-- The engine's read of a byte a host agent is writing is a race (20_memory.md R74, 70_reset_and_hazards.md R265). -/
def State.raceInput (s : State) (a : Addr) : State :=
  if s.unreadInput a then { s with racedIn := a :: s.racedIn } else s

/-- A host agent's byte write, performed now. While BUSY on an output byte the engine has written, the final byte is
either (R74): a free choice between this byte and the one that is there. On one it has yet to write, the choice is made at
that WRITE. DESIGN CHOICE (notes/assumptions/25.md): where a host agent wrote the byte before, the byte that is there may be that
write's, and stays a possible outcome. -/
def hostStore (s : State) (a : Addr) (v : Byte) : State :=
  let r := s.raceInput a
  if s.inOutput a then
    if (s.oldOutput a).isSome then
      { r with mem := if Config.freeBit s.draws then s.mem.write a.toNat v else s.mem, draws := s.draws + 1 }
    else { r with mem := s.mem.write a.toNat v, racedOut := a :: s.racedOut }
  else { r with mem := s.mem.write a.toNat v }

/-- A host agent's byte write, issued and not yet visible at the engine's port (70_reset_and_hazards.md R264). DESIGN CHOICE: for
an input byte it counts as a write while BUSY from its issue (notes/assumptions/10.md), for an output byte from its performance
(notes/assumptions/28.md). -/
def hostPost (s : State) (a : Addr) (v : Byte) : State :=
  { s.raceInput a with posted := s.posted ++ [(a, v)] }

/-- The oldest issued write is performed. DESIGN CHOICE: performed after the operation it was issued in, it is no write while BUSY,
and an output byte is then the host's (notes/assumptions/28.md). -/
def hostPerform (s : State) : State :=
  match s.posted with
  | [] => s
  | (a, v) :: rest => hostStore { s with posted := rest } a v

/-- H is the digest, and its bytes are what the engine writes next: the WRITE phase, and the FRAME after the trailer
(44_driver.md R174, R182). -/
def State.digestFinal (s : State) : Bool := s.phase == .write || (s.phase == .frame && s.cursor.trailer)

/-- The engine comes to write digest byte k, from the H it has: the memory admits every write from the next one up to it. -/
def State.writesReach (s : State) (k : Fin 32) : Bool :=
  let n := if s.phase = .write then s.kw.val else 0
  decide (n ≤ k.val) && (List.range (k.val + 1 - n)).all fun j => s.admitW (addrAfter s.dstL (n + j))

/-- A host agent's byte read. While BUSY on an output byte it gets the byte's value before or after the engine's write to it
(20_memory.md R74, 70_reset_and_hazards.md R266), a free choice, whether the engine has written the byte or has yet to. Where the
byte to be written is fixed, the read has it at once; else a read that gets the value after the write waits for it. DESIGN CHOICE
(notes/assumptions/27.md). Where a host agent wrote the byte after the engine did, the byte that is there may be that agent's.
DESIGN CHOICE (notes/assumptions/29.md). Elsewhere it gets what the memory holds, but for a byte with a host write issued and not
performed, where what the read gets is outside the spec (R75): a free value (notes/assumptions/9.md). -/
def hostLoad (s : State) (a : Addr) : State :=
  if s.inOutput a then
    match s.oldOutput a with
    | some old => s.answerByteDraw a (if Config.freeBit s.draws then s.byteAt a else old.getD (Config.initialByte a))
    | none =>
      if s.digestFinal then
        if s.writesReach (s.digestIndex a) then
          s.answerByteDraw a (if Config.freeBit s.draws then s.byteAt a else digestByte s.h (s.digestIndex a))
        else s.answerByte a (s.byteAt a)
      else if Config.freeBit s.draws then s.answerByteDraw a (s.byteAt a)
      else s.waitByte a
  else if s.posted.any (·.1 == a) then s.answerByteDraw a (Config.freeByte s.draws)
  else s.answerByte a (s.byteAt a)

/-! ### The engine's write port. -/

/-- The engine writes an admitted digest byte (20_memory.md R62). If a host agent wrote that byte earlier in the
operation, the final byte is either (R74): a free choice. The host reads that wait for the byte get the one there after it. -/
def engineStore (s : State) (a : Addr) (v : Byte) : State :=
  let r := { s with overwritten := (a, s.mem.read? a.toNat) :: s.overwritten }
  let w :=
    if s.racedOut.contains a then
      { r with mem := if Config.freeBit s.draws then s.mem.write a.toNat v else s.mem, draws := s.draws + 1 }
    else { r with mem := s.mem.write a.toNat v }
  w.answerWritten a

end Sys2Proof.Machine
end

