-- ==== Sys2Proof/Machine/Commands.lean ====
section
/-! DEFINITION. The commands (45_register_access.md R196 to R199, 44_driver.md R171). -/

namespace Sys2Proof.Machine

/-- What accept_hash() latches when the ranges are in the address space (44_driver.md R171). Host writes issued and not
yet visible to the input region make the engine's read of their byte a race (70_reset_and_hazards.md R264). -/
def latchOperation (s : State) : State :=
  { s with
    cursor := { cur := s.src, rem := s.len, lenL := s.len, marker := false, trailer := false }
    dstL := s.dst
    h := ivTable
    t := 0
    kw := 0
    phase := .frame
    racedIn := (s.posted.map (·.1)).filter (within s.src s.len.toNat)
    racedOut := []
    overwritten := [] }

/-- DONE, ERR, ERRCODE and ERRADDR cleared (44_driver.md R171, first line). -/
def clearCompletion (s : State) : State := { s with status := s.status.accept, errAddr := 0#64 }

/-- accept_hash() (44_driver.md R171). -/
def acceptHash (s : State) : State :=
  if rangeOk s.src s.len s.dst then latchOperation (clearCompletion s)
  else completeError (clearCompletion s) .range 0#64

/-- CMD_NOP (45_register_access.md R196): no effect, whether BUSY or not. -/
def execCmdNop (_ : BitVec 24) (s : State) : Host.Outcome State Fault Refusal := .next s

/-- CMD_HASH (45_register_access.md R197). -/
def execCmdHash (_ : BitVec 24) (s : State) : Host.Outcome State Fault Refusal :=
  if s.busy then .next (overrun s) else .next (acceptHash s)

/-- CMD_ILLEGAL (45_register_access.md R198). -/
def execCmdIllegal (_ : Byte) (_ : BitVec 24) (s : State) : Host.Outcome State Fault Refusal :=
  if s.busy then .next (overrun s) else .next (completeError s .illegalCmd 0#64)

end Sys2Proof.Machine
end

