-- ==== Sys2Proof/Machine/Compressor.lean ====
section
/-! DEFINITION. The compressor: round and fold of 43_compressor.md (R151 to R156). -/

namespace Sys2Proof.Machine

/-- temp1 = h + S1(e) + ch(e, f, g) + K[t] + W[t] (43_compressor.md R153). -/
def temp1 (wr : Vector Word 8) (k w : Word) : Word :=
  wr.get 7 + bigS1 (wr.get 4) + ch (wr.get 4) (wr.get 5) (wr.get 6) + k + w

/-- temp2 = S0(a) + maj(a, b, c) (43_compressor.md R153). -/
def temp2 (wr : Vector Word 8) : Word := bigS0 (wr.get 0) + maj (wr.get 0) (wr.get 1) (wr.get 2)

/-- round(t) on WR, with K[t] and W[t]: every right side is evaluated first (43_compressor.md R153, R154). -/
def compressRound (wr : Vector Word 8) (k w : Word) : Vector Word 8 :=
  #v[temp1 wr k w + temp2 wr, wr.get 0, wr.get 1, wr.get 2, wr.get 3 + temp1 wr k w, wr.get 4, wr.get 5, wr.get 6]

/-- H[i] <- H[i] + WR[i] for i = 0 to 7 (43_compressor.md R155). -/
def foldWords (h wr : Vector Word 8) : Vector Word 8 := Vector.ofFn fun i => h.get i + wr.get i

end Sys2Proof.Machine
end

