-- ==== Sys2Proof/Machine/Padder.lean ====
section
/-! DEFINITION. The padder and block framer: produce_next_block of 41_padder.md (R120 to R128). -/

namespace Sys2Proof.Machine

/-- BLK from its 64 bytes in order. -/
def blockOf (bs : List Byte) : Vector Byte 64 := Vector.ofFn fun j => bs.getD j.val 0#8

/-- The trailer: be64_bytes((8 * LEN_L) mod 2^64) (41_padder.md R127). -/
def trailerBytes (lenL : Addr) : List Byte := be64Bytes (BitVec.ofNat 64 (8 * lenL.toNat))

/-- The copied bytes with the marker appended unless it was already emitted (41_padder.md R124). -/
def withMarker (data : List Byte) (marker : Bool) : List Byte := if marker then data else data ++ [0x80#8]

/-- The trailer fits: the free space 64 - n is at least 8 (41_padder.md R125). -/
def trailerFits (body : List Byte) : Bool := decide (8 ≤ 64 - body.length)

/-- The block of a tail (41_padder.md R125, R126): zero fill and trailer, or zero fill alone. -/
def tailBlock (body : List Byte) (lenL : Addr) : List Byte :=
  if trailerFits body then body ++ List.replicate (56 - body.length) 0#8 ++ trailerBytes lenL
  else body ++ List.replicate (64 - body.length) 0#8

/-- produce_next_block() (41_padder.md R120): R121 terminal, R122 full block, R123 to R126 tail. -/
def produceNextBlock (s : State) : BlockResult :=
  let c := s.cursor
  if c.trailer then .noMore
  else if 64 ≤ c.rem.toNat then
    match s.readRun 64 c.cur s.draws with
    | .bytes bs d => .block (blockOf bs) { c with cur := addrAfter c.cur 64, rem := c.rem - 64#64 } d
    | .refusedAt a d => .busRead a d
    | .effectAt _ => .effect
  else
    match s.readRun c.rem.toNat c.cur s.draws with
    | .bytes bs d =>
      let body := withMarker bs c.marker
      .block (blockOf (tailBlock body c.lenL))
        { c with cur := addrAfter c.cur c.rem.toNat, rem := 0#64, marker := true, trailer := trailerFits body } d
    | .refusedAt a d => .busRead a d
    | .effectAt _ => .effect

end Sys2Proof.Machine
end

