-- ==== Sys2Proof/Machine/Scheduler.lean ====
section
/-! DEFINITION. The message scheduler: expand of 42_scheduler.md (R140 to R143). -/

namespace Sys2Proof.Machine

/-- W[i] of the loaded words, 0 ≤ i ≤ 15: be32(BLK[4i], ..., BLK[4i+3]) (42_scheduler.md R141). -/
def loadedWord (blk : Vector Byte 64) (i : Fin 16) : Word :=
  be32 (blk.get (Fin.ofNat 64 (4 * i.val))) (blk.get (Fin.ofNat 64 (4 * i.val + 1)))
    (blk.get (Fin.ofNat 64 (4 * i.val + 2))) (blk.get (Fin.ofNat 64 (4 * i.val + 3)))

/-- The sixteen loaded words, in order. -/
def loadedWords (blk : Vector Byte 64) : List Word := List.ofFn (loadedWord blk)

/-- The recurrence at index i = ws.length over the words so far: W[i-16] + s0(W[i-15]) + W[i-7] + s1(W[i-2])
(42_scheduler.md R142). -/
def nextWord (ws : List Word) : Word :=
  let i := ws.length
  ws.getD (i - 16) 0#32 + s0 (ws.getD (i - 15) 0#32) + ws.getD (i - 7) 0#32 + s1 (ws.getD (i - 2) 0#32)

/-- n more derived words, in increasing index (42_scheduler.md R143). -/
def deriveWords : Nat → List Word → List Word
  | 0, ws => ws
  | n + 1, ws => deriveWords n (ws ++ [nextWord ws])

/-- expand() (42_scheduler.md R140): the 64 words of the schedule from one block. -/
def expand (blk : Vector Byte 64) : Vector Word 64 :=
  let ws := deriveWords 48 (loadedWords blk)
  Vector.ofFn fun i => ws.getD i.val 0#32

end Sys2Proof.Machine
end

