-- ==== Sys2Proof/Machine/MicroSteps.lean ====
section
/-! DEFINITION. The engine's micro-steps (44_driver.md R173 to R178). PHASE selects the micro-step at the fetch; the
meanings do not test it again (notes/assumptions/23.md). -/

namespace Sys2Proof.Machine

/-- IDLE (R173): the engine takes no step. -/
def execIdle (s : State) : Host.Outcome State Fault Refusal := .next s

/-- FRAME (R174). A host read that waits gets the byte there where the operation ends (notes/assumptions/27.md). -/
def execFrame (s : State) : Host.Outcome State Fault Refusal :=
  match produceNextBlock s with
  | .noMore => .next { s with kw := 0, phase := .write }
  | .block b c d => .next { s with blk := b, cursor := c, draws := d, phase := .sched }
  | .busRead a d => .next (completeError (afterRefusedRead s.answerWaiting d) .busRead a)
  | .effect => .refused .inputHasReadSideEffects

/-- SCHED (R175): expand, seed WR from H (43_compressor.md R152), T <- 0. -/
def execSched (s : State) : Host.Outcome State Fault Refusal :=
  .next { s with w := expand s.blk, wr := s.h, t := 0, phase := .round }

/-- ROUND (R176): round(T). -/
def execRound (s : State) : Host.Outcome State Fault Refusal :=
  let r := { s with wr := compressRound s.wr (kTable.get s.t) (s.w.get s.t) }
  if s.t = 63 then .next { r with t := 0, phase := .fold } else .next { r with t := s.t + 1 }

/-- FOLD (R177). -/
def execFold (s : State) : Host.Outcome State Fault Refusal :=
  .next { s with h := foldWords s.h s.wr, phase := .frame }

/-- WRITE (R178): one digest byte. -/
def execWrite (s : State) : Host.Outcome State Fault Refusal :=
  if s.admitW s.digestAddr then
    let r := engineStore s s.digestAddr (digestByte s.h s.kw)
    if s.kw = 31 then .next (completeOk { r with kw := 0 }) else .next { r with kw := s.kw + 1 }
  else .next (completeError s.answerWaiting .busWrite s.digestAddr)

end Sys2Proof.Machine
end

