-- ==== Sys2Proof/Machine/Refused.lean ====
section
/-! DEFINITION. The rows the spec refuses: MISALIGNED (45_register_access.md R222) and PHASE_RSVD (30_encoding.md R88). -/

namespace Sys2Proof.Machine

/-- MISALIGNED, OFF[1:0] = 01 (R222). -/
def execMisaligned1 (_ : Bool) (_ : BitVec 6) (_ : Word) (_ : State) : Host.Outcome State Fault Refusal :=
  .refused .misalignedOrNarrowRegisterAccess
/-- MISALIGNED, OFF[1:0] = 10 (R222). -/
def execMisaligned2 (_ : Bool) (_ : BitVec 6) (_ : Word) (_ : State) : Host.Outcome State Fault Refusal :=
  .refused .misalignedOrNarrowRegisterAccess
/-- MISALIGNED, OFF[1:0] = 11 (R222). -/
def execMisaligned3 (_ : Bool) (_ : BitVec 6) (_ : Word) (_ : State) : Host.Outcome State Fault Refusal :=
  .refused .misalignedOrNarrowRegisterAccess
/-- PHASE_RSVD, code 6 (R88). -/
def execPhaseRsvd6 (_ : State) : Host.Outcome State Fault Refusal := .refused .reservedPhase
/-- PHASE_RSVD, code 7 (R88). -/
def execPhaseRsvd7 (_ : State) : Host.Outcome State Fault Refusal := .refused .reservedPhase

end Sys2Proof.Machine
end

