-- ==== Sys2Proof/Machine/RegReads.lean ====
section
/-! DEFINITION. The host's register reads (45_register_access.md). Each answers `rdata` and changes nothing else; only
RD_HASH while BUSY draws a free value. -/

namespace Sys2Proof.Machine

/-- RD_ID (R191). -/
def execRdId (s : State) : Host.Outcome State Fault Refusal := .next (s.answer idValue)
/-- RD_CTRL (R193): zext_32(CTRL.IE). -/
def execRdCtrl (s : State) : Host.Outcome State Fault Refusal := .next (s.answer ((BitVec.ofBool s.ie).setWidth 32))
/-- RD_CMD (R195): 0, and no command is started, repeated or cancelled. -/
def execRdCmd (s : State) : Host.Outcome State Fault Refusal := .next (s.answer 0#32)
/-- RD_STATUS (R200). -/
def execRdStatus (s : State) : Host.Outcome State Fault Refusal := .next (s.answer s.statusWord)
/-- RD_SRC_LO (R202). -/
def execRdSrcLo (s : State) : Host.Outcome State Fault Refusal := .next (s.answer s.ops.srcLo)
/-- RD_SRC_HI (R204). -/
def execRdSrcHi (s : State) : Host.Outcome State Fault Refusal := .next (s.answer s.ops.srcHi)
/-- RD_LEN_LO (R206). -/
def execRdLenLo (s : State) : Host.Outcome State Fault Refusal := .next (s.answer s.ops.lenLo)
/-- RD_LEN_HI (R208). -/
def execRdLenHi (s : State) : Host.Outcome State Fault Refusal := .next (s.answer s.ops.lenHi)
/-- RD_DST_LO (R210). -/
def execRdDstLo (s : State) : Host.Outcome State Fault Refusal := .next (s.answer s.ops.dstLo)
/-- RD_DST_HI (R212). -/
def execRdDstHi (s : State) : Host.Outcome State Fault Refusal := .next (s.answer s.ops.dstHi)
/-- RD_ERRADDR_LO (R214): ERRADDR[31:0]. -/
def execRdErrAddrLo (s : State) : Host.Outcome State Fault Refusal := .next (s.answer (loHalf s.errAddr))
/-- RD_ERRADDR_HI (R216): ERRADDR[63:32]. -/
def execRdErrAddrHi (s : State) : Host.Outcome State Fault Refusal := .next (s.answer (hiHalf s.errAddr))
/-- RD_HASH (R218): H[i] while IDLE, a free value while BUSY. -/
def execRdHash (i : Fin 8) (s : State) : Host.Outcome State Fault Refusal :=
  if s.busy then .next s.answerDraw else .next (s.answer (s.h.get i))
/-- RD_RSVD at 0x30 to 0x3C (R220): reads 0. -/
def execRdRsvd30 (_ : Fin 4) (s : State) : Host.Outcome State Fault Refusal := .next (s.answer 0#32)
/-- RD_RSVD at 0x60 to 0x7C (R220): reads 0. -/
def execRdRsvd60 (_ : Fin 8) (s : State) : Host.Outcome State Fault Refusal := .next (s.answer 0#32)
/-- RD_RSVD at 0x80 to 0xFC (R220): reads 0. -/
def execRdRsvd80 (_ : Fin 32) (s : State) : Host.Outcome State Fault Refusal := .next (s.answer 0#32)

end Sys2Proof.Machine
end

