-- ==== Sys2Proof/Machine/RegWrites.lean ====
section
/-! DEFINITION. The host's register writes (45_register_access.md): the same whether the engine is BUSY or not (R190). -/

namespace Sys2Proof.Machine

/-- WR_ID (R192): no effect. -/
def execWrId (_ : Word) (s : State) : Host.Outcome State Fault Refusal := .next s
/-- WR_CTRL (R194): CTRL.IE <- v[0]. -/
def execWrCtrl (v : Word) (s : State) : Host.Outcome State Fault Refusal := .next { s with ie := v.getLsbD 0 }
/-- WR_STATUS (R201): W1C. -/
def execWrStatus (v : Word) (s : State) : Host.Outcome State Fault Refusal := .next (acknowledge s v)
/-- WR_SRC_LO (R203). -/
def execWrSrcLo (v : Word) (s : State) : Host.Outcome State Fault Refusal := .next { s with ops := { s.ops with srcLo := v } }
/-- WR_SRC_HI (R205). -/
def execWrSrcHi (v : Word) (s : State) : Host.Outcome State Fault Refusal := .next { s with ops := { s.ops with srcHi := v } }
/-- WR_LEN_LO (R207). -/
def execWrLenLo (v : Word) (s : State) : Host.Outcome State Fault Refusal := .next { s with ops := { s.ops with lenLo := v } }
/-- WR_LEN_HI (R209). -/
def execWrLenHi (v : Word) (s : State) : Host.Outcome State Fault Refusal := .next { s with ops := { s.ops with lenHi := v } }
/-- WR_DST_LO (R211). -/
def execWrDstLo (v : Word) (s : State) : Host.Outcome State Fault Refusal := .next { s with ops := { s.ops with dstLo := v } }
/-- WR_DST_HI (R213). -/
def execWrDstHi (v : Word) (s : State) : Host.Outcome State Fault Refusal := .next { s with ops := { s.ops with dstHi := v } }
/-- WR_ERRADDR_LO (R215): no effect. -/
def execWrErrAddrLo (_ : Word) (s : State) : Host.Outcome State Fault Refusal := .next s
/-- WR_ERRADDR_HI (R217): no effect. -/
def execWrErrAddrHi (_ : Word) (s : State) : Host.Outcome State Fault Refusal := .next s
/-- WR_HASH (R219): no effect, H cannot be written by the host. -/
def execWrHash (_ : Fin 8) (_ : Word) (s : State) : Host.Outcome State Fault Refusal := .next s
/-- WR_RSVD at 0x30 to 0x3C (R221): no effect. -/
def execWrRsvd30 (_ : Fin 4) (_ : Word) (s : State) : Host.Outcome State Fault Refusal := .next s
/-- WR_RSVD at 0x60 to 0x7C (R221): no effect. -/
def execWrRsvd60 (_ : Fin 8) (_ : Word) (s : State) : Host.Outcome State Fault Refusal := .next s
/-- WR_RSVD at 0x80 to 0xFC (R221): no effect. -/
def execWrRsvd80 (_ : Fin 32) (_ : Word) (s : State) : Host.Outcome State Fault Refusal := .next s

end Sys2Proof.Machine
end

