-- ==== Sys2Proof/Machine/Dispatch.lean ====
section
/-! DEFINITION. The dispatch: one arm per constructor of Instr, each one call of its meaning. -/

namespace Sys2Proof.Machine

def exec (i : Instr) (s : State) : Host.Outcome State Fault Refusal :=
  match i with
  | .rdId => Sys2Proof.Machine.execRdId s
  | .wrId v => Sys2Proof.Machine.execWrId v s
  | .rdCtrl => Sys2Proof.Machine.execRdCtrl s
  | .wrCtrl v => Sys2Proof.Machine.execWrCtrl v s
  | .rdCmd => Sys2Proof.Machine.execRdCmd s
  | .cmdNop v => Sys2Proof.Machine.execCmdNop v s
  | .cmdHash v => Sys2Proof.Machine.execCmdHash v s
  | .cmdIllegal code v => Sys2Proof.Machine.execCmdIllegal code v s
  | .rdStatus => Sys2Proof.Machine.execRdStatus s
  | .wrStatus v => Sys2Proof.Machine.execWrStatus v s
  | .rdSrcLo => Sys2Proof.Machine.execRdSrcLo s
  | .wrSrcLo v => Sys2Proof.Machine.execWrSrcLo v s
  | .rdSrcHi => Sys2Proof.Machine.execRdSrcHi s
  | .wrSrcHi v => Sys2Proof.Machine.execWrSrcHi v s
  | .rdLenLo => Sys2Proof.Machine.execRdLenLo s
  | .wrLenLo v => Sys2Proof.Machine.execWrLenLo v s
  | .rdLenHi => Sys2Proof.Machine.execRdLenHi s
  | .wrLenHi v => Sys2Proof.Machine.execWrLenHi v s
  | .rdDstLo => Sys2Proof.Machine.execRdDstLo s
  | .wrDstLo v => Sys2Proof.Machine.execWrDstLo v s
  | .rdDstHi => Sys2Proof.Machine.execRdDstHi s
  | .wrDstHi v => Sys2Proof.Machine.execWrDstHi v s
  | .rdErrAddrLo => Sys2Proof.Machine.execRdErrAddrLo s
  | .wrErrAddrLo v => Sys2Proof.Machine.execWrErrAddrLo v s
  | .rdErrAddrHi => Sys2Proof.Machine.execRdErrAddrHi s
  | .wrErrAddrHi v => Sys2Proof.Machine.execWrErrAddrHi v s
  | .rdHash idx => Sys2Proof.Machine.execRdHash idx s
  | .wrHash idx v => Sys2Proof.Machine.execWrHash idx v s
  | .rdRsvd30 idx => Sys2Proof.Machine.execRdRsvd30 idx s
  | .wrRsvd30 idx v => Sys2Proof.Machine.execWrRsvd30 idx v s
  | .rdRsvd60 idx => Sys2Proof.Machine.execRdRsvd60 idx s
  | .wrRsvd60 idx v => Sys2Proof.Machine.execWrRsvd60 idx v s
  | .rdRsvd80 idx => Sys2Proof.Machine.execRdRsvd80 idx s
  | .wrRsvd80 idx v => Sys2Proof.Machine.execWrRsvd80 idx v s
  | .misaligned1 wr reg v => Sys2Proof.Machine.execMisaligned1 wr reg v s
  | .misaligned2 wr reg v => Sys2Proof.Machine.execMisaligned2 wr reg v s
  | .misaligned3 wr reg v => Sys2Proof.Machine.execMisaligned3 wr reg v s
  | .idle => Sys2Proof.Machine.execIdle s
  | .frame => Sys2Proof.Machine.execFrame s
  | .sched => Sys2Proof.Machine.execSched s
  | .round => Sys2Proof.Machine.execRound s
  | .fold => Sys2Proof.Machine.execFold s
  | .write => Sys2Proof.Machine.execWrite s
  | .phaseRsvd6 => Sys2Proof.Machine.execPhaseRsvd6 s
  | .phaseRsvd7 => Sys2Proof.Machine.execPhaseRsvd7 s

end Sys2Proof.Machine
end

