-- ==== Sys2Proof/WellFormed.lean ====
section
/-! DEFINITION. Which terms of Instr are instructions. The fields' types already bound every field but one: the row
CMD_ILLEGAL "matches only CODE not in {0x00, 0x01}" (opcode_table.json, 30_encoding.md R84). -/

namespace Sys2Proof

/-- The command codes that CMD_ILLEGAL stands for (30_encoding.md R84). -/
def illegalCode (code : Byte) : Bool := code != 0x00#8 && code != 0x01#8

/-- A well-formed instruction. -/
def Instr.wf : Instr → Bool
  | .cmdIllegal code _ => illegalCode code
  | .rdId | .wrId _ | .rdCtrl | .wrCtrl _ | .rdCmd | .cmdNop _ | .cmdHash _ | .rdStatus | .wrStatus _
  | .rdSrcLo | .wrSrcLo _ | .rdSrcHi | .wrSrcHi _ | .rdLenLo | .wrLenLo _ | .rdLenHi | .wrLenHi _
  | .rdDstLo | .wrDstLo _ | .rdDstHi | .wrDstHi _ | .rdErrAddrLo | .wrErrAddrLo _ | .rdErrAddrHi | .wrErrAddrHi _
  | .rdHash _ | .wrHash _ _ | .rdRsvd30 _ | .wrRsvd30 _ _ | .rdRsvd60 _ | .wrRsvd60 _ _ | .rdRsvd80 _ | .wrRsvd80 _ _
  | .misaligned1 _ _ _ | .misaligned2 _ _ _ | .misaligned3 _ _ _
  | .idle | .frame | .sched | .round | .fold | .write | .phaseRsvd6 | .phaseRsvd7 => true

/-- The instructions of format BUS: host register accesses. The others are micro-steps (opcode_table.json, "format"). -/
def Instr.isAccess : Instr → Bool
  | .idle | .frame | .sched | .round | .fold | .write | .phaseRsvd6 | .phaseRsvd7 => false
  | .rdId | .wrId _ | .rdCtrl | .wrCtrl _ | .rdCmd | .cmdNop _ | .cmdHash _ | .cmdIllegal _ _ | .rdStatus | .wrStatus _
  | .rdSrcLo | .wrSrcLo _ | .rdSrcHi | .wrSrcHi _ | .rdLenLo | .wrLenLo _ | .rdLenHi | .wrLenHi _
  | .rdDstLo | .wrDstLo _ | .rdDstHi | .wrDstHi _ | .rdErrAddrLo | .wrErrAddrLo _ | .rdErrAddrHi | .wrErrAddrHi _
  | .rdHash _ | .wrHash _ _ | .rdRsvd30 _ | .wrRsvd30 _ _ | .rdRsvd60 _ | .wrRsvd60 _ _ | .rdRsvd80 _ | .wrRsvd80 _ _
  | .misaligned1 _ _ _ | .misaligned2 _ _ _ | .misaligned3 _ _ _ => true

end Sys2Proof
end

