-- ==== Sys2Proof/Decode.lean ====
section
/-! DEFINITION. The decoder, total on every transaction word and every PHASE code, and the encoder, both written from
the tables of 30_encoding.md (R80 to R84, R88). A word that no row of the opcode table matches is rejected by name. -/

namespace Sys2Proof

/-- The 3-bit code of a phase (10_state.md R30). -/
def phaseCode : Phase → BitVec 3
  | .idle => 0#3 | .frame => 1#3 | .sched => 2#3 | .round => 3#3
  | .fold => 4#3 | .write => 5#3 | .unused6 => 6#3 | .unused7 => 7#3

/-- The phase a 3-bit code names (10_state.md R30). -/
def phaseOfCode (c : BitVec 3) : Phase :=
  match c.toNat with
  | 0 => .idle | 1 => .frame | 2 => .sched | 3 => .round
  | 4 => .fold | 5 => .write | 6 => .unused6 | _ => .unused7

/-- The micro-step a PHASE code selects (30_encoding.md R88). -/
def decodePhase (c : BitVec 3) : Instr :=
  match phaseOfCode c with
  | .idle => .idle | .frame => .frame | .sched => .sched | .round => .round
  | .fold => .fold | .write => .write | .unused6 => .phaseRsvd6 | .unused7 => .phaseRsvd7

/-- The register OFF[7:2] selects (30_encoding.md R82). -/
def decodeSlot (reg : BitVec 6) : Slot :=
  match reg.toNat with
  | 0 => .id | 1 => .ctrl | 2 => .cmd | 3 => .status
  | 4 => .srcLo | 5 => .srcHi | 6 => .lenLo | 7 => .lenHi | 8 => .dstLo | 9 => .dstHi
  | 10 => .errAddrLo | 11 => .errAddrHi
  | n =>
    if n < 16 then .rsvd30 (Fin.ofNat 4 (n - 12))
    else if n < 24 then .hash (Fin.ofNat 8 (n - 16))
    else if n < 32 then .rsvd60 (Fin.ofNat 8 (n - 24))
    else .rsvd80 (Fin.ofNat 32 (n - 32))

/-- The command in DATA[7:0]; DATA[31:8] are kept as the row's ignored bits (30_encoding.md R83, R84). -/
def decodeCommand (data : Word) : Instr :=
  let code : Byte := data.extractLsb' 0 8
  let ignored : BitVec 24 := data.extractLsb' 8 24
  if code = 0x00#8 then .cmdNop ignored
  else if code = 0x01#8 then .cmdHash ignored
  else .cmdIllegal code ignored

/-- A read of the selected register (30_encoding.md R82). -/
def decodeRead : Slot → Instr
  | .id => .rdId | .ctrl => .rdCtrl | .cmd => .rdCmd | .status => .rdStatus
  | .srcLo => .rdSrcLo | .srcHi => .rdSrcHi | .lenLo => .rdLenLo | .lenHi => .rdLenHi
  | .dstLo => .rdDstLo | .dstHi => .rdDstHi | .errAddrLo => .rdErrAddrLo | .errAddrHi => .rdErrAddrHi
  | .rsvd30 i => .rdRsvd30 i | .hash i => .rdHash i | .rsvd60 i => .rdRsvd60 i | .rsvd80 i => .rdRsvd80 i

/-- A write of the selected register (30_encoding.md R82). -/
def decodeWrite (slot : Slot) (data : Word) : Instr :=
  match slot with
  | .id => .wrId data | .ctrl => .wrCtrl data | .cmd => decodeCommand data | .status => .wrStatus data
  | .srcLo => .wrSrcLo data | .srcHi => .wrSrcHi data | .lenLo => .wrLenLo data | .lenHi => .wrLenHi data
  | .dstLo => .wrDstLo data | .dstHi => .wrDstHi data
  | .errAddrLo => .wrErrAddrLo data | .errAddrHi => .wrErrAddrHi data
  | .rsvd30 i => .wrRsvd30 i data | .hash i => .wrHash i data
  | .rsvd60 i => .wrRsvd60 i data | .rsvd80 i => .wrRsvd80 i data

/-- Bit 40, W (30_encoding.md R80): 1 is a write. -/
def wordIsWrite (w : BitVec 41) : Bool := w.extractLsb' 40 1 == 1#1
/-- OFF[7:2], the register. -/
def wordReg (w : BitVec 41) : BitVec 6 := w.extractLsb' 34 6
/-- OFF[1:0], which must be 00 for an aligned access (30_encoding.md R81). -/
def wordLane (w : BitVec 41) : BitVec 2 := w.extractLsb' 32 2
/-- DATA, bits 31 to 0. -/
def wordData (w : BitVec 41) : Word := w.extractLsb' 0 32

/-- The row of the table a transaction word matches. A read's DATA is 0 (30_encoding.md R80 and every read row's mask):
a read word with other DATA matches no row (none here, and the rejection is named by `decode`). -/
def decodeWord (w : BitVec 41) : Option Instr :=
  if wordLane w = 1#2 then some (.misaligned1 (wordIsWrite w) (wordReg w) (wordData w))
  else if wordLane w = 2#2 then some (.misaligned2 (wordIsWrite w) (wordReg w) (wordData w))
  else if wordLane w = 3#2 then some (.misaligned3 (wordIsWrite w) (wordReg w) (wordData w))
  else if wordIsWrite w then some (decodeWrite (decodeSlot (wordReg w)) (wordData w))
  else if wordData w = 0#32 then some (decodeRead (decodeSlot (wordReg w)))
  else none

/-- The decoder. Its one rejection is named `DecodeReject.readCarriesData`. -/
def decode : Code → Except DecodeReject Instr
  | .phase c => .ok (decodePhase c)
  | .bus w =>
    match decodeWord w with
    | some i => .ok i
    | none => .error .readCarriesData

/-- OFF[7:2] of a register (30_encoding.md R82). -/
def encodeSlot : Slot → BitVec 6
  | .id => 0#6 | .ctrl => 1#6 | .cmd => 2#6 | .status => 3#6
  | .srcLo => 4#6 | .srcHi => 5#6 | .lenLo => 6#6 | .lenHi => 7#6 | .dstLo => 8#6 | .dstHi => 9#6
  | .errAddrLo => 10#6 | .errAddrHi => 11#6
  | .rsvd30 i => BitVec.ofNat 6 (12 + i.val)
  | .hash i => BitVec.ofNat 6 (16 + i.val)
  | .rsvd60 i => BitVec.ofNat 6 (24 + i.val)
  | .rsvd80 i => BitVec.ofNat 6 (32 + i.val)

/-- The transaction word `W:OFF:DATA` with OFF given as register and lane (30_encoding.md R80). -/
def busWord (write : Bool) (reg : BitVec 6) (lane : BitVec 2) (data : Word) : BitVec 41 :=
  BitVec.ofBool write ++ (reg ++ (lane ++ data))

/-- A read word: W = 0, DATA = 0. -/
def readWord (slot : Slot) : Code := .bus (busWord false (encodeSlot slot) 0#2 0#32)
/-- A write word: W = 1. -/
def writeWord (slot : Slot) (data : Word) : Code := .bus (busWord true (encodeSlot slot) 0#2 data)
/-- DATA of a CMD write: the command in the low byte (30_encoding.md R83). -/
def commandData (code : Byte) (ignored : BitVec 24) : Word := ignored ++ code

/-- The words of a well-formed instruction. -/
def encode : Instr → Code
  | .rdId => readWord .id
  | .wrId d => writeWord .id d
  | .rdCtrl => readWord .ctrl
  | .wrCtrl d => writeWord .ctrl d
  | .rdCmd => readWord .cmd
  | .cmdNop g => writeWord .cmd (commandData 0x00#8 g)
  | .cmdHash g => writeWord .cmd (commandData 0x01#8 g)
  | .cmdIllegal c g => writeWord .cmd (commandData c g)
  | .rdStatus => readWord .status
  | .wrStatus d => writeWord .status d
  | .rdSrcLo => readWord .srcLo
  | .wrSrcLo d => writeWord .srcLo d
  | .rdSrcHi => readWord .srcHi
  | .wrSrcHi d => writeWord .srcHi d
  | .rdLenLo => readWord .lenLo
  | .wrLenLo d => writeWord .lenLo d
  | .rdLenHi => readWord .lenHi
  | .wrLenHi d => writeWord .lenHi d
  | .rdDstLo => readWord .dstLo
  | .wrDstLo d => writeWord .dstLo d
  | .rdDstHi => readWord .dstHi
  | .wrDstHi d => writeWord .dstHi d
  | .rdErrAddrLo => readWord .errAddrLo
  | .wrErrAddrLo d => writeWord .errAddrLo d
  | .rdErrAddrHi => readWord .errAddrHi
  | .wrErrAddrHi d => writeWord .errAddrHi d
  | .rdHash i => readWord (.hash i)
  | .wrHash i d => writeWord (.hash i) d
  | .rdRsvd30 i => readWord (.rsvd30 i)
  | .wrRsvd30 i d => writeWord (.rsvd30 i) d
  | .rdRsvd60 i => readWord (.rsvd60 i)
  | .wrRsvd60 i d => writeWord (.rsvd60 i) d
  | .rdRsvd80 i => readWord (.rsvd80 i)
  | .wrRsvd80 i d => writeWord (.rsvd80 i) d
  | .misaligned1 wr r d => .bus (busWord wr r 1#2 d)
  | .misaligned2 wr r d => .bus (busWord wr r 2#2 d)
  | .misaligned3 wr r d => .bus (busWord wr r 3#2 d)
  | .idle => .phase 0#3
  | .frame => .phase 1#3
  | .sched => .phase 2#3
  | .round => .phase 3#3
  | .fold => .phase 4#3
  | .write => .phase 5#3
  | .phaseRsvd6 => .phase 6#3
  | .phaseRsvd7 => .phase 7#3

/-- The instruction of a row of opcode_table.json from its bits. A row of format PHASE has 3 bits (one byte), a row of
format BUS has 41 (six bytes): notes/assumptions/22.md. Bits above them are 0 or the word is refused. -/
def decodeTableWord (nbits w : Nat) : Option Instr :=
  if nbits ≤ 8 then
    if w < 8 then some (decodePhase (BitVec.ofNat 3 w)) else none
  else if w < 2 ^ 41 then decodeWord (BitVec.ofNat 41 w)
  else none

end Sys2Proof
end

