-- ==== Sys2Proof/Machine/Fetch.lean ====
section
/-! DEFINITION. Whose turn it is and what it does (10_state.md R20, 60_exceptions.md R237): the head of `inputs`, or the
engine where there is none (notes/assumptions/2.md). -/

namespace Sys2Proof.Machine

/-- The instruction a code stands for, run in state s; a code that is none is refused by its own name. -/
def fetchCode (c : Code) (s : State) : Fetched :=
  match decode c with
  | .ok i => .run i s
  | .error .readCarriesData => .refuse .readWordCarriesData

/-- The engine's turn: the micro-step PHASE selects (30_encoding.md R88, 44_driver.md R173). -/
def fetchMicroStep (s : State) : Fetched := fetchCode (.phase (phaseCode s.phase)) s

/-- A host bus access, through the window at BASE (45_register_access.md R222). -/
def fetchBus (addr : Addr) (bits : Nat) (write : Bool) (data : Word) (s : State) : Fetched :=
  match transactionWord s.platform.base addr bits write data with
  | some w => fetchCode (.bus w) s
  | none => .refuse .misalignedOrNarrowRegisterAccess

/-- One turn. -/
def fetchInput (x : Input) (s : State) : Fetched :=
  match x with
  | .access w => fetchCode (.bus w) s
  | .bus addr bits write data => fetchBus addr bits write data s
  | .engine => fetchMicroStep s
  | .reset => .moved (resetEngine s)
  | .memStore a v => .moved (hostStore s a v)
  | .memPost a v => .moved (hostPost s a v)
  | .memPerform => .moved (hostPerform s)
  | .memLoad a => .moved (hostLoad s a)

/-- What the next step does. A state with PHASE 6 or 7 is refused whoever has the turn (30_encoding.md R88, "refuses the
state", 93_implementation_defined.md I9): its PHASE_RSVD row is run, whose meaning is the refusal (notes/assumptions/18.md). -/
def fetch (s : State) : Fetched :=
  match s.inputs with
  | [] => fetchMicroStep s
  | x :: rest =>
    if s.phaseReserved then fetchMicroStep { s with inputs := rest } else fetchInput x { s with inputs := rest }

end Sys2Proof.Machine
end

