-- ==== Sys2Proof/Machine/Step.lean ====
section
/-! DEFINITION. One step (00_scope.md R6): one host access, one engine micro-step, one reset, or one host memory access,
each atomic (20_memory.md R69). -/

namespace Sys2Proof.Machine

/-- One step of the machine. -/
def step (s : State) : Host.Outcome State Fault Refusal :=
  match fetch s with
  | .run i t => exec i t
  | .moved t => .next t
  | .refuse r => .refused r

/-- s with the instruction of these bits as its next step: a PHASE code (one byte) is put in PHASE and the engine given
the turn, a transaction word is put before the inputs (notes/assumptions/2.md, 22.md). -/
def State.withFetchWord (s : State) (nbits w : Nat) : State :=
  if nbits ≤ 8 then { s with phase := phaseOfCode (BitVec.ofNat 3 w), inputs := .engine :: s.inputs }
  else { s with inputs := .access (BitVec.ofNat 41 w) :: s.inputs }

end Sys2Proof.Machine
end

