-- ==== Sys2Proof/Safety.lean ====
section
/-! DEFINITION. The terms claims are stated in: which runs of reads are admitted, the invariant of the engine, what a
step may refuse, and SHA-256 as a function of the message alone (41_padder.md R129 to R131, 43_compressor.md R151,
44_driver.md R182), to hold the machine's micro-steps against. -/

namespace Sys2Proof.Safety

open Sys2Proof.Machine

/-! ### Reads. -/

/-- The n engine reads from a upwards are admitted, and of ordinary memory (00_scope.md R9, 20_memory.md R67). -/
abbrev AdmittedRun (s : State) (a : Addr) (n : Nat) : Prop :=
  ∀ j, j < n → s.admitR (addrAfter a j) = true ∧ s.readHasEffect (addrAfter a j) = false

/-- The n engine writes from a upwards are admitted (00_scope.md R9). -/
abbrev AdmittedWrites (s : State) (a : Addr) (n : Nat) : Prop := ∀ j, j < n → s.admitW (addrAfter a j) = true

/-- The n bytes the memory holds from a upwards. -/
def bytesFrom (s : State) (a : Addr) (n : Nat) : List Byte := (List.range n).map fun j => s.byteAt (addrAfter a j)

/-- The number of bytes in a tail block before the zero fill: the remaining bytes, and the marker unless it was emitted
(41_padder.md R124, R125). -/
def tailLength (s : State) : Nat := s.cursor.rem.toNat + if s.cursor.marker then 0 else 1

/-! ### The invariant of the engine. -/

/-- What every state of the engine from reset on satisfies, and every step keeps. -/
structure EngineInv (s : State) : Prop where
  /-- The memory is in canonical form. -/
  memory : s.mem.wf = true
  /-- PHASE is never 6 or 7 (30_encoding.md R88). -/
  phase : s.phase ≠ .unused6 ∧ s.phase ≠ .unused7
  /-- ERR is set exactly when an error code is recorded (10_state.md R37, R38). -/
  errcode : s.status.err = true ↔ s.status.errcode ≠ .none
  /-- While BUSY, DONE and ERR are 0 and ERRADDR is 0 (45_register_access.md R201, 44_driver.md R171). -/
  running : s.busy = true → s.status.done = false ∧ s.status.err = false ∧ s.errAddr = 0#64
  /-- While BUSY, no address the engine forms passes the top of memory (20_memory.md R71). -/
  ranges : s.busy = true → s.cursor.cur.toNat + s.cursor.rem.toNat ≤ 2 ^ 64 ∧ s.dstL.toNat + 32 ≤ 2 ^ 64
  /-- While BUSY, at most the latched length is left to read. -/
  remaining : s.busy = true → s.cursor.rem.toNat ≤ s.cursor.lenL.toNat
  /-- While BUSY, TRAILER = 1 implies MARKER = 1, and MARKER = 1 implies REM = 0 (41_padder.md R132). -/
  flags : s.busy = true →
    (s.cursor.trailer = true → s.cursor.marker = true) ∧ (s.cursor.marker = true → s.cursor.rem = 0#64)
  /-- While BUSY and before the marker, whole blocks have been read (41_padder.md R122). -/
  blocks : s.busy = true → s.cursor.marker = false → (s.cursor.lenL.toNat - s.cursor.rem.toNat) % 64 = 0
  /-- The digest is written after the last block only (20_memory.md R66). -/
  writing : s.phase = .write → s.cursor.trailer = true
  /-- While BUSY, T is 0 but in ROUND and KW is 0 but in WRITE (44_driver.md R175 to R178). -/
  indices : s.busy = true → (s.phase ≠ .round → s.t = 0) ∧ (s.phase ≠ .write → s.kw = 0)
  /-- A host read waits only for an output byte that the running operation has yet to write (notes/assumptions/27.md). -/
  waiting : ∀ a ∈ s.waiting, s.busy = true ∧ s.dstL.toNat ≤ a.toNat ∧ a.toNat < s.dstL.toNat + 32 ∧
    (s.phase = .write → s.dstL.toNat + s.kw.val ≤ a.toNat)

/-! ### What a step may refuse. -/

/-- The input gives the engine's window an access it has: an aligned write, or an aligned read without data. -/
def properWord (w : BitVec 41) : Bool := wordLane w == 0#2 && (wordIsWrite w || wordData w == 0#32)

/-- Nothing the next step does is one of the refusals of 45_register_access.md R222, 30_encoding.md R80 and R88, and
20_memory.md R67. -/
def ProperTurn (s : State) : Prop :=
  s.platform.readEffects = [] ∧ s.phase ≠ .unused6 ∧ s.phase ≠ .unused7 ∧
  match s.inputs.head? with
  | some (.access w) => properWord w = true
  | some (.bus addr bits write data) =>
    ∃ w, transactionWord s.platform.base addr bits write data = some w ∧ properWord w = true
  | _ => True

/-! ### SHA-256 as a function of the message. -/

/-- The primes below 312, in order: the first 64 (43_compressor.md R150, "the primes 2 to 311"). -/
def firstPrimes : List Nat :=
  (List.range 312).filter fun n => decide (2 ≤ n) && (List.range n).all fun d => decide (d < 2) || n % d != 0

/-- z = (55 - L) mod 64 (41_padder.md R131). -/
def paddingZeros (l : Nat) : Nat := (119 - l % 64) % 64

/-- The message, the marker, z zero bytes and the trailer (41_padder.md R127, R131). -/
def paddedMessage (msg : List Byte) : List Byte :=
  msg ++ [0x80#8] ++ List.replicate (paddingZeros msg.length) 0#8 ++ be64Bytes (BitVec.ofNat 64 (8 * msg.length))

/-- N(L) = floor((L + 8) / 64) + 1 (41_padder.md R129). -/
def blockCount (l : Nat) : Nat := (l + 8) / 64 + 1

/-- Block k of the padded message. -/
def messageBlock (msg : List Byte) (k : Nat) : Vector Byte 64 := blockOf ((paddedMessage msg).drop (64 * k))

/-- The 64 rounds over one schedule (43_compressor.md R151, R156). -/
def allRounds (w : Vector Word 64) (wr : Vector Word 8) : Vector Word 8 :=
  (List.finRange 64).foldl (fun r t => compressRound r (kTable.get t) (w.get t)) wr

/-- compress() on one block (43_compressor.md R151). -/
def compressBlock (h : Vector Word 8) (blk : Vector Byte 64) : Vector Word 8 := foldWords h (allRounds (expand blk) h)

/-- The hash state after every block of the message (44_driver.md R182). -/
def sha256 (msg : List Byte) : Vector Word 8 :=
  (List.range (blockCount msg.length)).foldl (fun h k => compressBlock h (messageBlock msg k)) ivTable

/-- k micro-steps or turns, stopping at the first stop. -/
abbrev runFor (k : Nat) (s : State) : Host.Outcome State Fault Refusal := Sys2Proof.core.run k s

end Sys2Proof.Safety
end

