-- ==== Sys2Proof/Certificates/Slice0/Obligations.lean ====
section
/-! DEFINITION. The statements for the provers. Each is a rule of spec/ about the machine, or an invariant of it; the docstring
names the rule. An equation `exec i s = .next { s with … }` says the result, the frame and the completion at once: every
field it does not name is unchanged. -/

open Sys2Proof Sys2Proof.Machine Sys2Proof.Safety

/-! ### Encoding. -/

/-- 30_encoding.md R80 to R84, R88: decoding the words of a well-formed instruction gives it back, every operand kept. -/
def Obligations.DecodeOfEncode : Prop :=
  ∀ i : Instr, i.wf = true → decode (encode i) = .ok i

/-- 30_encoding.md R89: a code has one meaning. What decodes to an instruction is that instruction's encoding, and the
instruction is well-formed. -/
def Obligations.EncodeOfDecode : Prop :=
  ∀ (c : Code) (i : Instr), decode c = .ok i → i.wf = true ∧ encode i = c

/-- 30_encoding.md R80 and the read rows of the opcode table: exactly the aligned read words that carry data are no
instruction. That such a word is refused is the model's reading (notes/assumptions/11.md). -/
def Obligations.DecodeRejectsExactlyReadsWithData : Prop :=
  ∀ w : BitVec 41, (∃ i, decode (.bus w) = .ok i) ↔
    ¬(w.getLsbD 40 = false ∧ w.getLsbD 33 = false ∧ w.getLsbD 32 = false ∧ w.extractLsb' 0 32 ≠ 0#32)

/-- 30_encoding.md R80, R82, R84, R88: words written out from the tables decode to what they stand for. -/
def Obligations.WordsOfTheTableDecode : Prop :=
  decode (.bus 0x00C00000000#41) = .ok .rdStatus ∧
  decode (.bus 0x11000001000#41) = .ok (.wrSrcLo 0x1000#32) ∧
  decode (.bus 0x10800000101#41) = .ok (.cmdHash 0x000001#24) ∧
  decode (.bus 0x108ABCDEF07#41) = .ok (.cmdIllegal 0x07#8 0xABCDEF#24) ∧
  decode (.bus 0x05C00000000#41) = .ok (.rdHash 7) ∧
  decode (.bus 0x03C00000000#41) = .ok (.rdRsvd30 3) ∧
  decode (.bus 0x1FC00000005#41) = .ok (.wrRsvd80 31 5#32) ∧
  decode (.bus 0x00E00000000#41) = .ok (.misaligned2 false 3#6 0#32) ∧
  decode (.phase 3#3) = .ok .round ∧ decode (.phase 6#3) = .ok .phaseRsvd6

/-! ### A step. -/

/-- 00_scope.md R6, 20_memory.md R69: a step runs the instruction its turn decodes to, in the state with that turn taken.
The turns are the model's (notes/assumptions/2.md). In a state with PHASE 6 or 7 every turn is the engine's, whose PHASE_RSVD row
is the refusal (30_encoding.md R88). -/
def Obligations.StepRunsDecodedInstruction : Prop :=
  (∀ (s : State) (w : BitVec 41) (rest : List Input) (i : Instr), s.phase ≠ .unused6 → s.phase ≠ .unused7 →
    s.inputs = .access w :: rest → decode (.bus w) = .ok i → step s = exec i { s with inputs := rest }) ∧
  (∀ (s : State) (rest : List Input) (i : Instr),
    s.inputs = .engine :: rest → decode (.phase (phaseCode s.phase)) = .ok i → step s = exec i { s with inputs := rest }) ∧
  (∀ (s : State) (i : Instr),
    s.inputs = [] → decode (.phase (phaseCode s.phase)) = .ok i → step s = exec i s) ∧
  (∀ (s : State) (x : Input) (rest : List Input) (i : Instr), s.phase = .unused6 ∨ s.phase = .unused7 →
    s.inputs = x :: rest → decode (.phase (phaseCode s.phase)) = .ok i → step s = exec i { s with inputs := rest })

/-- 44_driver.md R173, 30_encoding.md R88: the engine's turn runs the one micro-step PHASE names, and leaves an IDLE engine
as it is. -/
def Obligations.EngineTurnRunsThePhase : Prop :=
  ∀ s : State, s.inputs = [] →
    (s.phase = .idle → step s = .next s) ∧ (s.phase = .frame → step s = exec .frame s) ∧
    (s.phase = .sched → step s = exec .sched s) ∧ (s.phase = .round → step s = exec .round s) ∧
    (s.phase = .fold → step s = exec .fold s) ∧ (s.phase = .write → step s = exec .write s) ∧
    (s.phase = .unused6 ∨ s.phase = .unused7 → step s = .refused .reservedPhase)

/-- 45_register_access.md R222, 30_encoding.md R81: a misaligned access, an access of a size other than 32 bits and one outside
the 256-byte window are refused. In a state with PHASE 6 or 7 the refusal has the name of R88 (notes/assumptions/18.md). That a
window whose BASE is within 255 bytes of 2^64 does not wrap is the model's choice (notes/assumptions/24.md). -/
def Obligations.MisalignedNarrowOrOutsideAccessIsRefused : Prop :=
  (∀ (wr : Bool) (reg : BitVec 6) (v : Word) (s : State),
    exec (.misaligned1 wr reg v) s = .refused .misalignedOrNarrowRegisterAccess ∧
    exec (.misaligned2 wr reg v) s = .refused .misalignedOrNarrowRegisterAccess ∧
    exec (.misaligned3 wr reg v) s = .refused .misalignedOrNarrowRegisterAccess) ∧
  (∀ (s : State) (w : BitVec 41) (rest : List Input), s.inputs = .access w :: rest →
    (w.getLsbD 32 = true ∨ w.getLsbD 33 = true) →
    ∃ r, step s = .refused r ∧
      (s.phase ≠ .unused6 → s.phase ≠ .unused7 → r = .misalignedOrNarrowRegisterAccess)) ∧
  (∀ (s : State) (addr : Addr) (bits : Nat) (wr : Bool) (v : Word) (rest : List Input),
    s.inputs = .bus addr bits wr v :: rest →
    (bits ≠ 32 ∨ addr.toNat < s.platform.base.toNat ∨ s.platform.base.toNat + 256 ≤ addr.toNat ∨
      (addr.toNat - s.platform.base.toNat) % 4 ≠ 0) →
    ∃ r, step s = .refused r ∧
      (s.phase ≠ .unused6 → s.phase ≠ .unused7 → r = .misalignedOrNarrowRegisterAccess))

/-- 30_encoding.md R80, 10_state.md R33: a 32-bit bus access inside the window at BASE is the transaction word of its
offset. A window that passes 2^64 does not wrap (notes/assumptions/24.md). -/
def Obligations.WindowAccessIsItsTransactionWord : Prop :=
  ∀ (s : State) (addr : Addr) (wr : Bool) (v : Word) (rest : List Input) (off : BitVec 8),
    s.inputs = .bus addr 32 wr v :: rest → addr.toNat = s.platform.base.toNat + off.toNat →
    step s = step { s with inputs := .access (BitVec.ofBool wr ++ (off ++ (if wr then v else 0#32))) :: rest }

/-- 30_encoding.md R88: "a model that finds PHASE in {6, 7} refuses the state", whoever has the turn. That a reset is refused
there too is the model's reading (notes/assumptions/18.md). -/
def Obligations.ReservedPhaseIsRefused : Prop :=
  (∀ s : State, exec .phaseRsvd6 s = .refused .reservedPhase ∧ exec .phaseRsvd7 s = .refused .reservedPhase) ∧
  (∀ s : State, s.phase = .unused6 ∨ s.phase = .unused7 → step s = .refused .reservedPhase)

/-- 44_driver.md R186: nothing but the refusals of R222, R80, R88 and R67 stops a run. Every other step answers a next
state, whatever the input bytes and the memory's answers. -/
def Obligations.ProperTurnAnswersNext : Prop :=
  ∀ s : State, ProperTurn s → ∃ t, step s = .next t

/-! ### Host reads. -/

/-- 45_register_access.md R191, R195, R220: the constant reads. -/
def Obligations.ConstantReads : Prop :=
  ∀ s : State,
    exec .rdId s = .next { s with rdata := some 0x53323536#32 } ∧
    exec .rdCmd s = .next { s with rdata := some 0#32 } ∧
    (∀ i, exec (.rdRsvd30 i) s = .next { s with rdata := some 0#32 }) ∧
    (∀ i, exec (.rdRsvd60 i) s = .next { s with rdata := some 0#32 }) ∧
    (∀ i, exec (.rdRsvd80 i) s = .next { s with rdata := some 0#32 })

/-- 45_register_access.md R202, R204, R206, R208, R210, R212: the operand registers read what they hold. -/
def Obligations.OperandRegisterReads : Prop :=
  ∀ s : State,
    exec .rdSrcLo s = .next { s with rdata := some s.ops.srcLo } ∧
    exec .rdSrcHi s = .next { s with rdata := some s.ops.srcHi } ∧
    exec .rdLenLo s = .next { s with rdata := some s.ops.lenLo } ∧
    exec .rdLenHi s = .next { s with rdata := some s.ops.lenHi } ∧
    exec .rdDstLo s = .next { s with rdata := some s.ops.dstLo } ∧
    exec .rdDstHi s = .next { s with rdata := some s.ops.dstHi }

/-- 45_register_access.md R214, R216: the two halves of ERRADDR. -/
def Obligations.ErraddrReadsAreItsHalves : Prop :=
  ∀ s : State, ∃ lo hi : Word,
    exec .rdErrAddrLo s = .next { s with rdata := some lo } ∧
    exec .rdErrAddrHi s = .next { s with rdata := some hi } ∧
    lo.toNat = s.errAddr.toNat % 2 ^ 32 ∧ hi.toNat = s.errAddr.toNat / 2 ^ 32

/-- 45_register_access.md R193: RD_CTRL reads IE and nothing else. -/
def Obligations.CtrlRead : Prop :=
  ∀ s : State, exec .rdCtrl s = .next { s with rdata := some (if s.ie then 1#32 else 0#32) }

/-- 45_register_access.md R200: RD_STATUS reads BUSY + 2*DONE + 4*ERR + 8*OVR + 256*ERRCODE. -/
def Obligations.StatusReadFormula : Prop :=
  ∀ s : State, ∃ w : Word, exec .rdStatus s = .next { s with rdata := some w } ∧
    w.toNat = (if s.phase = .idle then 0 else 1) + 2 * s.status.done.toNat + 4 * s.status.err.toNat +
      8 * s.status.ovr.toNat + 256 * (match s.status.errcode with
        | .none => 0 | .illegalCmd => 1 | .range => 2 | .busRead => 3 | .busWrite => 4)

/-- 45_register_access.md R218: RD_HASH reads H[i] while IDLE, and completes with some value while BUSY. -/
def Obligations.HashRead : Prop :=
  ∀ (s : State) (i : Fin 8),
    (s.phase = .idle → exec (.rdHash i) s = .next { s with rdata := some (s.h.get i) }) ∧
    (s.phase ≠ .idle → ∃ v, exec (.rdHash i) s = .next { s with rdata := some v, draws := s.draws + 1 })

/-! ### Host writes. -/

/-- 45_register_access.md R203, R205, R207, R209, R211, R213: an operand write stores its word, BUSY or not. A length of 2^32
or more needs LEN_HI, and a DST that leaves no room makes the next HASH fail with RANGE. -/
def Obligations.OperandRegisterWrites : Prop :=
  ∀ (s : State) (v : Word),
    exec (.wrSrcLo v) s = .next { s with ops := { s.ops with srcLo := v } } ∧
    exec (.wrSrcHi v) s = .next { s with ops := { s.ops with srcHi := v } } ∧
    exec (.wrLenLo v) s = .next { s with ops := { s.ops with lenLo := v } } ∧
    exec (.wrLenHi v) s = .next { s with ops := { s.ops with lenHi := v } } ∧
    exec (.wrDstLo v) s = .next { s with ops := { s.ops with dstLo := v } } ∧
    exec (.wrDstHi v) s = .next { s with ops := { s.ops with dstHi := v } } ∧
    (2 ^ 32 ≤ (v ++ s.ops.lenLo).toNat ↔ v ≠ 0#32) ∧
    (∀ g, s.phase = .idle → 2 ^ 64 < (v ++ s.ops.dstLo).toNat + 32 →
      ∃ t, exec (.cmdHash g) { s with ops := { s.ops with dstHi := v } } = .next t ∧ t.status.errcode = .range)

/-- 45_register_access.md R192, R215, R217, R219, R221: writes that do nothing. -/
def Obligations.IgnoredWrites : Prop :=
  ∀ (s : State) (v : Word),
    exec (.wrId v) s = .next s ∧ exec (.wrErrAddrLo v) s = .next s ∧ exec (.wrErrAddrHi v) s = .next s ∧
    (∀ i, exec (.wrHash i v) s = .next s) ∧ (∀ i, exec (.wrRsvd30 i v) s = .next s) ∧
    (∀ i, exec (.wrRsvd60 i v) s = .next s) ∧ (∀ i, exec (.wrRsvd80 i v) s = .next s)

/-- 45_register_access.md R194: WR_CTRL keeps bit 0, and the interrupt follows at once. -/
def Obligations.CtrlWrite : Prop :=
  ∀ (s : State) (v : Word), ∃ t, exec (.wrCtrl v) s = .next t ∧ t = { s with ie := v.getLsbD 0 } ∧
    t.irq = (v.getLsbD 0 && s.status.done)

/-- 45_register_access.md R201, 30_encoding.md R86: the W1C write of STATUS, and the interrupt after it. While BUSY, DONE and
ERR are 0 already, and only OVR can change. -/
def Obligations.StatusWriteClears : Prop :=
  ∀ (s : State) (v : Word), ∃ t, exec (.wrStatus v) s = .next t ∧
    t = { s with status :=
      { done := if v.getLsbD 1 = true then false else s.status.done
        err := if v.getLsbD 2 = true then false else s.status.err
        ovr := if v.getLsbD 3 = true then false else s.status.ovr
        errcode := if v.getLsbD 2 = true then .none else s.status.errcode } } ∧
    t.irq = (s.ie && t.status.done) ∧
    (EngineInv s → s.busy = true → s.status.done = false ∧ s.status.err = false ∧
      t.status = { s.status with ovr := t.status.ovr })

/-! ### Commands. -/

/-- 45_register_access.md R196: NOP, whether BUSY or not. -/
def Obligations.NopHasNoEffect : Prop :=
  ∀ (s : State) (g : BitVec 24), exec (.cmdNop g) s = .next s

/-- 44_driver.md R171, R172, 60_exceptions.md R232: what the acceptance of a HASH latches and clears where its ranges fit, and
how it ends at once where one does not. The race lists are the model's own (notes/assumptions/8.md, 9.md). The eight words of IV are
those of R170, which the spec marks as general knowledge and the model takes (notes/assumptions/17.md). -/
def Obligations.HashAcceptance : Prop :=
  ∀ (s : State) (g : BitVec 24), s.phase = .idle →
    ((s.ops.srcHi ++ s.ops.srcLo).toNat + (s.ops.lenHi ++ s.ops.lenLo).toNat ≤ 2 ^ 64 ∧
      (s.ops.dstHi ++ s.ops.dstLo).toNat + 32 ≤ 2 ^ 64 →
      ∃ r, exec (.cmdHash g) s = .next { s with
        status := { s.status with done := false, err := false, errcode := .none }
        errAddr := 0#64
        cursor := { cur := s.ops.srcHi ++ s.ops.srcLo, rem := s.ops.lenHi ++ s.ops.lenLo
                    lenL := s.ops.lenHi ++ s.ops.lenLo, marker := false, trailer := false }
        dstL := s.ops.dstHi ++ s.ops.dstLo
        h := #v[0x6a09e667#32, 0xbb67ae85#32, 0x3c6ef372#32, 0xa54ff53a#32,
                0x510e527f#32, 0x9b05688c#32, 0x1f83d9ab#32, 0x5be0cd19#32]
        t := 0
        kw := 0
        phase := .frame
        racedIn := r
        racedOut := []
        overwritten := [] }) ∧
    (2 ^ 64 < (s.ops.srcHi ++ s.ops.srcLo).toNat + (s.ops.lenHi ++ s.ops.lenLo).toNat ∨
      2 ^ 64 < (s.ops.dstHi ++ s.ops.dstLo).toNat + 32 →
      exec (.cmdHash g) s = .next { s with
        phase := .idle, errAddr := 0#64
        status := { done := true, err := true, ovr := s.status.ovr, errcode := .range } })

/-- 45_register_access.md R198, 60_exceptions.md R231: an illegal command, IDLE and BUSY. -/
def Obligations.IllegalCommandError : Prop :=
  ∀ (s : State) (c : Byte) (g : BitVec 24), c ≠ 0x00#8 → c ≠ 0x01#8 →
    (s.phase = .idle → exec (.cmdIllegal c g) s = .next { s with
      phase := .idle, errAddr := 0#64
      status := { done := true, err := true, ovr := s.status.ovr, errcode := .illegalCmd } }) ∧
    (s.phase ≠ .idle → exec (.cmdIllegal c g) s = .next { s with status := { s.status with ovr := true } })

/-- 45_register_access.md R199, 60_exceptions.md R235: a command while BUSY changes nothing but OVR, which no step clears but a
W1C write or a reset. -/
def Obligations.CommandWhileBusyIsDropped : Prop :=
  (∀ s : State, s.phase ≠ .idle →
    (∀ g, exec (.cmdHash g) s = .next { s with status := { s.status with ovr := true } }) ∧
    (∀ c g, c ≠ 0x00#8 → c ≠ 0x01#8 →
      exec (.cmdIllegal c g) s = .next { s with status := { s.status with ovr := true } })) ∧
  (∀ s t : State, step s = .next t → s.status.ovr = true → t.status.ovr = false →
    (∃ v u, fetch s = .run (.wrStatus v) u ∧ v.getLsbD 3 = true) ∨ s.inputs.head? = some .reset)

/-! ### Micro-steps. -/

/-- 44_driver.md R173: the engine takes no step while IDLE. -/
def Obligations.IdleTakesNoStep : Prop :=
  ∀ s : State, exec .idle s = .next s

/-- 41_padder.md R121, 44_driver.md R174: after the trailer there are no more blocks, and nothing is read. -/
def Obligations.FrameAfterTrailer : Prop :=
  ∀ s : State, s.cursor.trailer = true → exec .frame s = .next { s with kw := 0, phase := .write }

/-- 41_padder.md R122: a full block is copied verbatim and the cursor advances by 64. A raced byte (20_memory.md R74) is
whatever it is. -/
def Obligations.FrameFullBlock : Prop :=
  ∀ s : State, s.cursor.trailer = false → 64 ≤ s.cursor.rem.toNat → AdmittedRun s s.cursor.cur 64 →
    ∃ b d, exec .frame s = .next { s with
        blk := b, phase := .sched, draws := d
        cursor := { s.cursor with cur := s.cursor.cur + 64#64, rem := s.cursor.rem - 64#64 } } ∧
      ∀ j : Fin 64, s.cursor.cur + BitVec.ofNat 64 j.val ∉ s.racedIn →
        b.get j = s.byteAt (s.cursor.cur + BitVec.ofNat 64 j.val)

/-- 41_padder.md R123 to R127: a tail, its data, marker and zeros, and then the trailer where 8 bytes are left for it. A raced
byte (20_memory.md R74) is whatever it is. -/
def Obligations.FrameTail : Prop :=
  ∀ s : State, s.cursor.trailer = false → s.cursor.rem.toNat < 64 → AdmittedRun s s.cursor.cur s.cursor.rem.toNat →
    ∃ b d tr, exec .frame s = .next { s with
        blk := b, phase := .sched, draws := d
        cursor := { cur := s.cursor.cur + s.cursor.rem, rem := 0#64, lenL := s.cursor.lenL
                    marker := true, trailer := tr } } ∧
      (tr = true ↔ 8 ≤ 64 - tailLength s) ∧
      (∀ j : Fin 64, j.val < s.cursor.rem.toNat → s.cursor.cur + BitVec.ofNat 64 j.val ∉ s.racedIn →
        b.get j = s.byteAt (s.cursor.cur + BitVec.ofNat 64 j.val)) ∧
      (∀ j : Fin 64, s.cursor.marker = false → j.val = s.cursor.rem.toNat → b.get j = 0x80#8) ∧
      (∀ j : Fin 64, tailLength s ≤ j.val → (tr = true → j.val < 56) → b.get j = 0x00#8) ∧
      (tr = true → ∀ j : Fin 64, 56 ≤ j.val →
        (b.get j).toNat = 8 * s.cursor.lenL.toNat % 2 ^ 64 / 2 ^ (8 * (63 - j.val)) % 256)

/-- 60_exceptions.md R233, 41_padder.md R128: the first refused read ends the operation with BUS_READ at its address.
BLK and the cursor after it are "irrelevant": free in this model (notes/assumptions/7.md). The host reads that wait for an output
byte get the one there (notes/assumptions/27.md). -/
def Obligations.FrameRefusedRead : Prop :=
  ∀ (s : State) (j : Nat), s.cursor.trailer = false → j < 64 → j < s.cursor.rem.toNat →
    AdmittedRun s s.cursor.cur j → s.admitR (s.cursor.cur + BitVec.ofNat 64 j) = false →
    ∃ b c d, exec .frame s = .next { s with
        blk := b, cursor := c, draws := d, phase := .idle, waiting := []
        mdata := if s.waiting = [] then s.mdata else s.waiting.map fun a => (a, s.byteAt a)
        status := { done := true, err := true, ovr := s.status.ovr, errcode := .busRead }
        errAddr := s.cursor.cur + BitVec.ofNat 64 j }

/-- 20_memory.md R67 and 92_eei_decisions.md D30: an input byte that is not ordinary memory is refused. -/
def Obligations.FrameRefusesReadSideEffects : Prop :=
  ∀ (s : State) (j : Nat), s.cursor.trailer = false → j < 64 → j < s.cursor.rem.toNat →
    AdmittedRun s s.cursor.cur j → s.admitR (s.cursor.cur + BitVec.ofNat 64 j) = true →
    s.readHasEffect (s.cursor.cur + BitVec.ofNat 64 j) = true →
    exec .frame s = .refused .inputHasReadSideEffects

/-- 44_driver.md R175, 42_scheduler.md R140 to R142, 43_compressor.md R152: the schedule's sixteen loaded words and the
recurrence of the others, WR seeded from H. -/
def Obligations.SchedComputesTheSchedule : Prop :=
  ∀ s : State, ∃ w : Vector Word 64,
    exec .sched s = .next { s with w := w, wr := s.h, t := 0, phase := .round } ∧
    (∀ (i : Nat) (hi : i < 16),
      (w[i]'(by omega)).toNat = (s.blk[4 * i]'(by omega)).toNat * 2 ^ 24 + (s.blk[4 * i + 1]'(by omega)).toNat * 2 ^ 16 +
        (s.blk[4 * i + 2]'(by omega)).toNat * 2 ^ 8 + (s.blk[4 * i + 3]'(by omega)).toNat) ∧
    (∀ (i : Nat) (hi : i < 48),
      w[i + 16]'(by omega) = w[i]'(by omega) +
        ((w[i + 1]'(by omega)).rotateRight 7 ^^^ (w[i + 1]'(by omega)).rotateRight 18 ^^^ (w[i + 1]'(by omega)) >>> 3) +
        w[i + 9]'(by omega) +
        ((w[i + 14]'(by omega)).rotateRight 17 ^^^ (w[i + 14]'(by omega)).rotateRight 19 ^^^
          (w[i + 14]'(by omega)) >>> 10))

/-- 43_compressor.md R153, 44_driver.md R176: one round, all sums modulo 2^32. -/
def Obligations.RoundUpdatesWorkingRegisters : Prop :=
  ∀ s : State,
    let a := s.wr.get 0; let b := s.wr.get 1; let c := s.wr.get 2; let d := s.wr.get 3
    let e := s.wr.get 4; let f := s.wr.get 5; let g := s.wr.get 6; let h := s.wr.get 7
    let t1 := h + (e.rotateRight 6 ^^^ e.rotateRight 11 ^^^ e.rotateRight 25) + ((e &&& f) ^^^ (~~~e &&& g)) +
      kTable.get s.t + s.w.get s.t
    let t2 := (a.rotateRight 2 ^^^ a.rotateRight 13 ^^^ a.rotateRight 22) + ((a &&& b) ^^^ (a &&& c) ^^^ (b &&& c))
    (s.t = 63 → exec .round s = .next { s with wr := #v[t1 + t2, a, b, c, d + t1, e, f, g], t := 0, phase := .fold }) ∧
    (s.t ≠ 63 → exec .round s = .next { s with wr := #v[t1 + t2, a, b, c, d + t1, e, f, g], t := s.t + 1 })

/-- 44_driver.md R177, 43_compressor.md R155: each working register is added into its word of H. -/
def Obligations.FoldAddsWorkingRegisters : Prop :=
  ∀ s : State, ∃ h : Vector Word 8, exec .fold s = .next { s with h := h, phase := .frame } ∧
    ∀ i : Fin 8, h.get i = s.h.get i + s.wr.get i

/-- 44_driver.md R178, R179, R180: an admitted WRITE stores one digest byte at DST_L + KW, most significant byte of each
word first, and changes no other byte; the last one completes; a refused one ends with BUS_WRITE. A byte that a host agent
wrote while BUSY is another statement's. What the byte held is put in the model's record (notes/assumptions/9.md), and the host
reads that wait for it get what the memory then holds (notes/assumptions/27.md). -/
def Obligations.WriteStoresOneDigestByte : Prop :=
  ∀ s : State, s.dstL + BitVec.ofNat 64 s.kw.val ∉ s.racedOut →
    (s.admitW (s.dstL + BitVec.ofNat 64 s.kw.val) = true → ∃ m, exec .write s = .next { s with
        mem := m
        overwritten := (s.dstL + BitVec.ofNat 64 s.kw.val,
          s.mem.read? (s.dstL + BitVec.ofNat 64 s.kw.val).toNat) :: s.overwritten
        mdata := if s.dstL + BitVec.ofNat 64 s.kw.val ∈ s.waiting
          then [(s.dstL + BitVec.ofNat 64 s.kw.val, ({ s with mem := m } : State).byteAt (s.dstL + BitVec.ofNat 64 s.kw.val))]
          else s.mdata
        waiting := s.waiting.filter (· ≠ s.dstL + BitVec.ofNat 64 s.kw.val)
        kw := if s.kw = 31 then 0 else s.kw + 1
        phase := if s.kw = 31 then .idle else s.phase
        status := if s.kw = 31 then { s.status with done := true } else s.status } ∧
      (∀ a, a ≠ s.dstL + BitVec.ofNat 64 s.kw.val → ({ s with mem := m } : State).byteAt a = s.byteAt a) ∧
      (({ s with mem := m } : State).byteAt (s.dstL + BitVec.ofNat 64 s.kw.val)).toNat =
        (s.h.get (Fin.ofNat 8 (s.kw.val / 4))).toNat / 2 ^ (24 - 8 * (s.kw.val % 4)) % 256) ∧
    (s.admitW (s.dstL + BitVec.ofNat 64 s.kw.val) = false → ∃ t, exec .write s = .next t ∧ t.phase = .idle ∧
      t.status.errcode = .busWrite ∧ t.errAddr = s.dstL + BitVec.ofNat 64 s.kw.val ∧ t.kw = s.kw ∧ t.mem = s.mem)

/-- 20_memory.md R74: where a host agent wrote the digest byte while BUSY, an admitted WRITE leaves either value there and raises
no error: no other byte changes, KW goes on, the last one completes, the host reads that wait for the byte get the one there
(notes/assumptions/27.md), and nothing else changes but the counter of free values and the record of what the byte held. The lists
of such bytes are the model's (notes/assumptions/9.md). -/
def Obligations.RacedDigestByteIsEither : Prop :=
  ∀ s : State, s.admitW (s.dstL + BitVec.ofNat 64 s.kw.val) = true → s.dstL + BitVec.ofNat 64 s.kw.val ∈ s.racedOut →
    ∃ m d, exec .write s = .next { s with
        mem := m, draws := d
        overwritten := (s.dstL + BitVec.ofNat 64 s.kw.val,
          s.mem.read? (s.dstL + BitVec.ofNat 64 s.kw.val).toNat) :: s.overwritten
        mdata := if s.dstL + BitVec.ofNat 64 s.kw.val ∈ s.waiting
          then [(s.dstL + BitVec.ofNat 64 s.kw.val, ({ s with mem := m } : State).byteAt (s.dstL + BitVec.ofNat 64 s.kw.val))]
          else s.mdata
        waiting := s.waiting.filter (· ≠ s.dstL + BitVec.ofNat 64 s.kw.val)
        kw := if s.kw = 31 then 0 else s.kw + 1
        phase := if s.kw = 31 then .idle else s.phase
        status := if s.kw = 31 then { s.status with done := true } else s.status } ∧
      (∀ a, a ≠ s.dstL + BitVec.ofNat 64 s.kw.val → ({ s with mem := m } : State).byteAt a = s.byteAt a) ∧
      ((({ s with mem := m } : State).byteAt (s.dstL + BitVec.ofNat 64 s.kw.val)).toNat =
          (s.h.get (Fin.ofNat 8 (s.kw.val / 4))).toNat / 2 ^ (24 - 8 * (s.kw.val % 4)) % 256 ∨
        ({ s with mem := m } : State).byteAt (s.dstL + BitVec.ofNat 64 s.kw.val) =
          s.byteAt (s.dstL + BitVec.ofNat 64 s.kw.val))

/-- 60_exceptions.md R234, 44_driver.md R181: a refused WRITE ends the operation with BUS_WRITE at its address, and
changes no memory. The host reads that wait for an output byte get the one there (notes/assumptions/27.md). -/
def Obligations.RefusedWriteError : Prop :=
  ∀ s : State, s.admitW (s.dstL + BitVec.ofNat 64 s.kw.val) = false →
    exec .write s = .next { s with
      phase := .idle, waiting := []
      mdata := if s.waiting = [] then s.mdata else s.waiting.map fun a => (a, s.byteAt a)
      status := { done := true, err := true, ovr := s.status.ovr, errcode := .busWrite }
      errAddr := s.dstL + BitVec.ofNat 64 s.kw.val }

/-! ### Word operations. -/

/-- 40_word_ops.md R102: "result bit i is `x[(i + n) mod 32]`". -/
def Obligations.RotrBits : Prop :=
  ∀ (x : Word) (n : Nat) (hn : 0 < n ∧ n < 32) (i : Nat), i < 32 →
    (rotr x n hn).getLsbD i = x.getLsbD ((i + n) % 32)

/-- 40_word_ops.md R105 to R108: the four mixing functions, bit by bit. -/
def Obligations.MixingFunctionBits : Prop :=
  ∀ (x : Word) (i : Nat), i < 32 →
    (s0 x).getLsbD i = (x.getLsbD ((i + 7) % 32) ^^ x.getLsbD ((i + 18) % 32) ^^ x.getLsbD (i + 3)) ∧
    (s1 x).getLsbD i = (x.getLsbD ((i + 17) % 32) ^^ x.getLsbD ((i + 19) % 32) ^^ x.getLsbD (i + 10)) ∧
    (bigS0 x).getLsbD i = (x.getLsbD ((i + 2) % 32) ^^ x.getLsbD ((i + 13) % 32) ^^ x.getLsbD ((i + 22) % 32)) ∧
    (bigS1 x).getLsbD i = (x.getLsbD ((i + 6) % 32) ^^ x.getLsbD ((i + 11) % 32) ^^ x.getLsbD ((i + 25) % 32))

/-- 40_word_ops.md R109, R110: choose and majority, bit by bit. -/
def Obligations.ChooseAndMajorityBits : Prop :=
  ∀ (x y z : Word) (i : Nat), i < 32 →
    (ch x y z).getLsbD i = (if x.getLsbD i = true then y.getLsbD i else z.getLsbD i) ∧
    (maj x y z).getLsbD i = decide (2 ≤ (x.getLsbD i).toNat + (y.getLsbD i).toNat + (z.getLsbD i).toNat)

/-- 40_word_ops.md R111 to R113: big-endian assembly and serialisation. -/
def Obligations.BigEndianSerialisation : Prop :=
  (∀ b0 b1 b2 b3 : Byte,
    (be32 b0 b1 b2 b3).toNat = b0.toNat * 2 ^ 24 + b1.toNat * 2 ^ 16 + b2.toNat * 2 ^ 8 + b3.toNat) ∧
  (∀ (v : BitVec 64) (j : Nat), j < 8 →
    ∃ b, (be64Bytes v)[j]? = some b ∧ b.toNat = v.toNat / 2 ^ (56 - 8 * j) % 256) ∧
  (∀ (x : Word) (j : Fin 4), (wordByte x j).toNat = x.toNat / 2 ^ (24 - 8 * j.val) % 256)

/-! ### Reset and the invariant. -/

/-- 70_reset_and_hazards.md R260: the values the spec gives for reset (WR, W and BLK have none). -/
def Obligations.ResetValues : Prop :=
  (∀ i : Fin 8, State.reset.h.get i = 0#32) ∧
  State.reset.cursor = { cur := 0#64, rem := 0#64, lenL := 0#64, marker := false, trailer := false } ∧
  State.reset.dstL = 0#64 ∧ State.reset.phase = .idle ∧ State.reset.t = 0 ∧ State.reset.kw = 0 ∧
  State.reset.ie = false ∧ State.reset.statusWord = 0#32 ∧ State.reset.errAddr = 0#64 ∧
  State.reset.src = 0#64 ∧ State.reset.len = 0#64 ∧ State.reset.dst = 0#64 ∧ State.reset.irq = false

/-- 70_reset_and_hazards.md R260, R262: a reset between any two steps abandons the operation, sets every register the spec
gives a reset value to it, and leaves every byte of memory. The turn that stands for a reset is the model's
(notes/assumptions/2.md), and so is what the host reads that wait get (notes/assumptions/27.md); a state with PHASE 6 or 7 is
refused (notes/assumptions/18.md). -/
def Obligations.ResetEventAbandonsOperation : Prop :=
  ∀ (s : State) (rest : List Input), s.inputs = .reset :: rest → s.phase ≠ .unused6 → s.phase ≠ .unused7 →
    ∃ t, step s = .next t ∧ (∀ i : Fin 8, t.h.get i = 0#32) ∧
      t.cursor = State.reset.cursor ∧ t.dstL = 0#64 ∧ t.phase = .idle ∧ t.t = 0 ∧ t.kw = 0 ∧ t.ie = false ∧
      t.status = State.reset.status ∧ t.errAddr = 0#64 ∧ t.ops = State.reset.ops ∧ t.irq = false ∧
      t.mem = s.mem ∧ t.platform = s.platform ∧ t.inputs = rest ∧ t.waiting = [] ∧
      t.mdata = if s.waiting = [] then s.mdata else s.waiting.map fun a => (a, s.byteAt a)

/-- The reset state meets the invariant. -/
def Obligations.ResetMeetsEngineInvariant : Prop := EngineInv State.reset

/-- 41_padder.md R132, 20_memory.md R66 and R71, 30_encoding.md R88, 10_state.md R32 and R37: every step keeps the
invariant, from every state that meets it. -/
def Obligations.StepKeepsEngineInvariant : Prop :=
  ∀ s t : State, EngineInv s → step s = .next t → EngineInv t

/-! ### Whole-machine rules. -/

/-- 43_compressor.md R155: H is written by FOLD, at the acceptance of a HASH and by reset, and by nothing else. -/
def Obligations.HashStateWriters : Prop :=
  ∀ s t : State, step s = .next t → t.h ≠ s.h →
    (∃ u, fetch s = .run .fold u) ∨ (s.phase = .idle ∧ ∃ g u, fetch s = .run (.cmdHash g) u) ∨
    s.inputs.head? = some .reset

/-- 60_exceptions.md R247: the engine "leaves IDLE only by accepting a HASH". -/
def Obligations.OnlyAcceptedHashLeavesIdle : Prop :=
  ∀ s t : State, step s = .next t → s.phase = .idle → t.phase ≠ .idle →
    (∃ g u, fetch s = .run (.cmdHash g) u) ∧ s.src.toNat + s.len.toNat ≤ 2 ^ 64 ∧ s.dst.toNat + 32 ≤ 2 ^ 64 ∧
      t.phase = .frame

/-- 10_state.md R37 and R42: OVR is set only by a dropped command and cleared only by a W1C write or reset. DONE and ERR are set
only by a completion, of a FRAME or WRITE micro-step or of a command while IDLE, which leaves the engine IDLE, and are cleared only
by an acceptance, a W1C write or reset. ERRADDR changes only with an error completion, an acceptance or a reset. -/
def Obligations.StatusBitWriters : Prop :=
  ∀ s t : State, step s = .next t →
    (s.status.ovr = false → t.status.ovr = true → s.phase ≠ .idle ∧
      ((∃ g u, fetch s = .run (.cmdHash g) u) ∨ (∃ c g u, fetch s = .run (.cmdIllegal c g) u))) ∧
    (s.status.ovr = true → t.status.ovr = false →
      (∃ v u, fetch s = .run (.wrStatus v) u ∧ v.getLsbD 3 = true) ∨ s.inputs.head? = some .reset) ∧
    (s.status.done = false → t.status.done = true → t.phase = .idle ∧
      ((s.phase = .idle ∧ ∃ g u, fetch s = .run (.cmdHash g) u) ∨
        (s.phase = .idle ∧ ∃ c g u, fetch s = .run (.cmdIllegal c g) u) ∨
        (∃ u, fetch s = .run .frame u) ∨ (∃ u, fetch s = .run .write u))) ∧
    (s.status.err = false → t.status.err = true → t.status.done = true ∧ t.phase = .idle ∧
      ((s.phase = .idle ∧ (∃ g u, fetch s = .run (.cmdHash g) u) ∧ t.status.errcode = .range) ∨
        (s.phase = .idle ∧ (∃ c g u, fetch s = .run (.cmdIllegal c g) u) ∧ t.status.errcode = .illegalCmd) ∨
        ((∃ u, fetch s = .run .frame u) ∧ t.status.errcode = .busRead) ∨
        ((∃ u, fetch s = .run .write u) ∧ t.status.errcode = .busWrite))) ∧
    (s.status.done = true → t.status.done = false →
      (s.phase = .idle ∧ ∃ g u, fetch s = .run (.cmdHash g) u) ∨
      (∃ v u, fetch s = .run (.wrStatus v) u ∧ v.getLsbD 1 = true) ∨ s.inputs.head? = some .reset) ∧
    (s.status.err = true → t.status.err = false →
      (s.phase = .idle ∧ ∃ g u, fetch s = .run (.cmdHash g) u) ∨
      (∃ v u, fetch s = .run (.wrStatus v) u ∧ v.getLsbD 2 = true) ∨ s.inputs.head? = some .reset) ∧
    (t.errAddr ≠ s.errAddr →
      (s.phase = .idle ∧ (∃ g u, fetch s = .run (.cmdHash g) u) ∧ t.errAddr = 0#64) ∨
      (s.phase = .idle ∧ (∃ c g u, fetch s = .run (.cmdIllegal c g) u) ∧ t.errAddr = 0#64) ∨
      ((∃ u, fetch s = .run .frame u) ∧ t.status.errcode = .busRead ∧ t.status.err = true ∧ t.phase = .idle) ∨
      ((∃ u, fetch s = .run .write u) ∧ t.status.errcode = .busWrite ∧ t.status.err = true ∧ t.phase = .idle) ∨
      s.inputs.head? = some .reset)

/-- 20_memory.md R66: a step changes a byte of memory only where WRITE stores a digest byte or a host agent writes. That the issued
writes are performed in the order of their issue, the oldest first, is the model's choice (notes/assumptions/10.md), and so are the
turns that stand for a host agent's writes (notes/assumptions/2.md). -/
def Obligations.MemoryWriters : Prop :=
  ∀ (s t : State) (a : Addr), step s = .next t → t.byteAt a ≠ s.byteAt a →
    ((∃ u, fetch s = .run .write u) ∧ a = s.dstL + BitVec.ofNat 64 s.kw.val ∧ s.admitW a = true) ∨
    (∃ v, s.inputs.head? = some (.memStore a v)) ∨
    (s.inputs.head? = some .memPerform ∧ ∃ v, s.posted.head? = some (a, v))

/-- 45_register_access.md R190: a register access changes no memory, nothing of the datapath but what a HASH acceptance
latches, and nothing of the platform. -/
def Obligations.RegisterAccessFrame : Prop :=
  ∀ (i : Instr) (s t : State), i.isAccess = true → exec i s = .next t →
    t.mem = s.mem ∧ t.w = s.w ∧ t.wr = s.wr ∧ t.blk = s.blk ∧ t.platform = s.platform ∧ t.inputs = s.inputs ∧
    t.posted = s.posted ∧ t.mdata = s.mdata ∧ t.waiting = s.waiting ∧
    (s.phase ≠ .idle → t.h = s.h ∧ t.cursor = s.cursor ∧ t.dstL = s.dstL ∧ t.phase = s.phase ∧ t.t = s.t ∧ t.kw = s.kw)

/-- The frame of the micro-steps (44_driver.md R174 to R178): no micro-step changes CTRL, the operand registers, OVR, DST_L, the
platform or the host's side, none but WRITE changes a byte of memory, and none changes LEN_L but a FRAME that ends with
BUS_READ, of whose cursor nothing is said (41_padder.md R128, 93_implementation_defined.md I7, notes/assumptions/7.md). Only WRITE
and such a FRAME answer host reads that wait (notes/assumptions/27.md). -/
def Obligations.MicroStepFrame : Prop :=
  ∀ (i : Instr) (s t : State), i.isAccess = false → exec i s = .next t →
    t.ie = s.ie ∧ t.ops = s.ops ∧ t.status.ovr = s.status.ovr ∧ t.platform = s.platform ∧ t.rdata = s.rdata ∧
    t.inputs = s.inputs ∧ t.posted = s.posted ∧ t.dstL = s.dstL ∧ (s.waiting = [] → t.mdata = s.mdata) ∧
    (∀ a, a ∈ t.waiting → a ∈ s.waiting) ∧
    (i ≠ .write → ¬(i = .frame ∧ t.phase = .idle) → t.mdata = s.mdata ∧ t.waiting = s.waiting) ∧
    (¬(i = .frame ∧ t.phase = .idle) → t.cursor.lenL = s.cursor.lenL) ∧ (i ≠ .write → ∀ a, t.byteAt a = s.byteAt a)

/-- 60_exceptions.md R246: the host has no view of PHASE (beyond BUSY), T, KW, BLK, W or WR. Two states that differ only
there answer every access alike. For RD_HASH while BUSY that is the model's choice: both states have drawn equally often, and so
have the same draw (notes/assumptions/6.md), where 92_eei_decisions.md D14 lets a device answer any value. -/
def Obligations.HiddenStateIsNotVisible : Prop :=
  ∀ (i : Instr) (s t : State) (p : Phase) (τ : Fin 64) (κ : Fin 32) (b : Vector Byte 64) (x : Vector Word 64)
    (y : Vector Word 8),
    i.isAccess = true → (p = .idle ↔ s.phase = .idle) → exec i s = .next t →
    ∃ t', exec i { s with phase := p, t := τ, kw := κ, blk := b, w := x, wr := y } = .next t' ∧
      t'.rdata = t.rdata ∧ t'.statusWord = t.statusWord ∧ t'.irq = t.irq ∧ t'.h = t.h ∧ t'.ops = t.ops ∧
      t'.ie = t.ie ∧ t'.errAddr = t.errAddr ∧ t'.mem = t.mem

/-! ### Races with the host's memory accesses. -/

/-- 20_memory.md R74, 70_reset_and_hazards.md R264, R265: a host write to an input byte the running operation has yet to
read, performed or only issued, makes the engine's read of it a race; one issued before the CMD write and not performed
does so at acceptance. The list of raced bytes is the model's (notes/assumptions/8.md, 10.md). -/
def Obligations.HostWritesRaceWithInputReads : Prop :=
  (∀ (s : State) (a : Addr) (v : Byte) (rest : List Input), s.phase ≠ .idle → s.phase ≠ .unused6 → s.phase ≠ .unused7 →
    s.cursor.cur.toNat ≤ a.toNat → a.toNat < s.cursor.cur.toNat + s.cursor.rem.toNat →
    (s.inputs = .memStore a v :: rest → ∃ t, step s = .next t ∧ a ∈ t.racedIn) ∧
    (s.inputs = .memPost a v :: rest → ∃ t, step s = .next t ∧ a ∈ t.racedIn ∧ t.mem = s.mem ∧
      t.posted = s.posted ++ [(a, v)])) ∧
  (∀ (s t : State) (a : Addr) (v : Byte) (g : BitVec 24), s.phase = .idle → (a, v) ∈ s.posted →
    s.src.toNat ≤ a.toNat → a.toNat < s.src.toNat + s.len.toNat → exec (.cmdHash g) s = .next t → t.phase = .frame →
    a ∈ t.racedIn)

/-- 20_memory.md R74, 70_reset_and_hazards.md R266: a host agent's write, performed now (a store, or the oldest issued write),
changes no other byte. While IDLE, and outside DST..DST+31, the byte is the host's. While BUSY in DST..DST+31: where the engine has
yet to write the byte it is the host's and the byte's WRITE is a race; where the engine has written it, it is the host's or
stays. The records, and the order of issued writes, are the model's (notes/assumptions/9.md, 10.md, 25.md, 28.md), and so is that the
memory is reached at an address inside the register window (notes/assumptions/26.md). -/
def Obligations.HostWriteOfOutputByteIsEither : Prop :=
  (∀ (s : State) (a : Addr) (v : Byte) (rest : List Input), s.phase ≠ .unused6 → s.phase ≠ .unused7 →
    (s.inputs = .memStore a v :: rest ∨ s.inputs = .memPerform :: rest ∧ ∃ q, s.posted = (a, v) :: q) →
    ∃ t, step s = .next t ∧ (∀ c, c ≠ a → t.byteAt c = s.byteAt c) ∧
      (s.phase = .idle ∨ a.toNat < s.dstL.toNat ∨ s.dstL.toNat + 32 ≤ a.toNat → t.byteAt a = v) ∧
      (s.phase ≠ .idle → s.dstL.toNat ≤ a.toNat → a.toNat < s.dstL.toNat + 32 → (∀ old, (a, old) ∉ s.overwritten) →
        t.byteAt a = v ∧ a ∈ t.racedOut) ∧
      (s.phase ≠ .idle → s.dstL.toNat ≤ a.toNat → a.toNat < s.dstL.toNat + 32 → (∃ old, (a, old) ∈ s.overwritten) →
        t.byteAt a = v ∨ t.byteAt a = s.byteAt a)) ∧
  (∀ (s : State) (rest : List Input), s.phase ≠ .unused6 → s.phase ≠ .unused7 → s.inputs = .memPerform :: rest →
    s.posted = [] → step s = .next { s with inputs := rest })

/-- 20_memory.md R73 (item 3), R74, 70_reset_and_hazards.md R266: a host agent's read changes no memory, and is answered at once,
or waits. While IDLE, and outside DST..DST+31, it gets what the memory holds if no host write to the byte is issued and unperformed
(else it gets some byte: R75). While BUSY in DST..DST+31 it gets the byte's value before or after the engine's write to it, issued
writes or none, by a choice of which nothing is known: where the engine has written the byte, the one it overwrote or the one
there; where it has yet to and H is the digest (the WRITE phase, and the FRAME after the trailer), the one there or, if it comes to
be written, the digest byte; where H is not yet the digest, the one there, or it waits for the write. The records, the choice and
the waiting are the model's (notes/assumptions/9.md, 27.md, 29.md), and so is that the memory is reached at an address inside the
register window (notes/assumptions/26.md). -/
def Obligations.HostReadsSeeTheMemory : Prop :=
  ∀ (s : State) (a : Addr) (rest : List Input), s.phase ≠ .unused6 → s.phase ≠ .unused7 →
    s.inputs = .memLoad a :: rest → ∃ t, step s = .next t ∧ t.mem = s.mem ∧
      ((∃ v, t.mdata = [(a, v)] ∧ t.waiting = s.waiting) ∨ (t.mdata = s.mdata ∧ t.waiting = s.waiting ++ [a])) ∧
      (s.phase = .idle ∨ a.toNat < s.dstL.toNat ∨ s.dstL.toNat + 32 ≤ a.toNat →
        t.waiting = s.waiting ∧ ((∀ x, (a, x) ∉ s.posted) → t.mdata = [(a, s.byteAt a)])) ∧
      (s.phase ≠ .idle → s.dstL.toNat ≤ a.toNat → a.toNat < s.dstL.toNat + 32 →
        (∃ old, (a, old) ∈ s.overwritten) → ∃ old, (a, old) ∈ s.overwritten ∧
          t.mdata = [(a, if Config.freeBit s.draws then s.byteAt a else old.getD (Config.initialByte a))]) ∧
      ((∀ old, (a, old) ∉ s.overwritten) → s.phase = .write ∨ (s.phase = .frame ∧ s.cursor.trailer = true) →
        ∀ k : Fin 32, a.toNat = s.dstL.toNat + k.val →
          let n := if s.phase = .write then s.kw.val else 0
          (n ≤ k.val → (∀ j, n ≤ j → j ≤ k.val → s.admitW (s.dstL + BitVec.ofNat 64 j) = true) →
            t.mdata = [(a, if Config.freeBit s.draws then s.byteAt a else digestByte s.h k)]) ∧
          (k.val < n ∨ (∃ j, n ≤ j ∧ j ≤ k.val ∧ s.admitW (s.dstL + BitVec.ofNat 64 j) = false) →
            t.mdata = [(a, s.byteAt a)])) ∧
      ((∀ old, (a, old) ∉ s.overwritten) → s.phase ≠ .idle → s.phase ≠ .write →
        (s.phase = .frame → s.cursor.trailer = false) → s.dstL.toNat ≤ a.toNat → a.toNat < s.dstL.toNat + 32 →
        if Config.freeBit s.draws then t.mdata = [(a, s.byteAt a)] ∧ t.waiting = s.waiting
        else t.mdata = s.mdata ∧ t.waiting = s.waiting ++ [a])

/-! ### A whole operation. -/

/-- 43_compressor.md R156: a block takes exactly 64 ROUND micro-steps, each with its own K[t] and W[t]. -/
def Obligations.BlockTakesSixtyFourRounds : Prop :=
  ∀ s : State, s.inputs = [] → s.phase = .round → s.t = 0 →
    (∀ k, k < 64 → ∃ u, runFor k s = .next u ∧ u.phase = .round ∧ u.t.val = k) ∧
    runFor 64 s = .next { s with wr := allRounds s.w s.wr, t := 0, phase := .fold }

/-- 44_driver.md R174 to R177: from a FRAME that produces a block, 67 micro-steps fold the compression of that block into
H and come back to FRAME. -/
def Obligations.BlockFoldsItsCompression : Prop :=
  ∀ (s : State) (b : Vector Byte 64) (c : Cursor) (d : Nat), s.inputs = [] → s.phase = .frame →
    produceNextBlock s = .block b c d →
    ∃ u, runFor 67 s = .next u ∧ u.phase = .frame ∧ u.h = compressBlock s.h b ∧ u.cursor = c ∧ u.mem = s.mem ∧
      u.dstL = s.dstL ∧ u.kw = s.kw ∧ u.status = s.status ∧ u.inputs = []

/-- 44_driver.md R178, R180: 32 admitted WRITE micro-steps store the 32 digest bytes and complete. -/
def Obligations.DigestTakesThirtyTwoWrites : Prop :=
  ∀ s : State, s.inputs = [] → s.phase = .write → s.kw = 0 → s.racedOut = [] → AdmittedWrites s s.dstL 32 →
    ∃ u, runFor 32 s = .next u ∧ u.phase = .idle ∧ u.status = { s.status with done := true } ∧ u.h = s.h ∧
      (∀ k : Fin 32, u.byteAt (addrAfter s.dstL k.val) = digestByte s.h k) ∧
      (∀ a, (∀ k : Fin 32, a ≠ addrAfter s.dstL k.val) → u.byteAt a = s.byteAt a)

/-- 44_driver.md R182: an operation whose ranges fit and whose accesses are admitted ends, after 67 * N(L) + 33 micro-steps
and not before (R183), with the SHA-256 digest of its input bytes in H and at D..D+31, and changes no other byte. The
input and the output may overlap (20_memory.md R79). No host access comes between. That the digest is SHA-256's rests on the values
of K and IV, which the spec marks as general knowledge (notes/assumptions/17.md). -/
def Obligations.HashWritesSha256OfInput : Prop :=
  ∀ (s : State) (g : BitVec 24), s.phase = .idle → s.inputs = [] → s.posted = [] →
    s.src.toNat + s.len.toNat ≤ 2 ^ 64 → s.dst.toNat + 32 ≤ 2 ^ 64 →
    AdmittedRun s s.src s.len.toNat → AdmittedWrites s s.dst 32 →
    ∃ t u, exec (.cmdHash g) s = .next t ∧ runFor (67 * blockCount s.len.toNat + 33) t = .next u ∧
      (∀ k, k < 67 * blockCount s.len.toNat + 33 → ∃ v, runFor k t = .next v ∧ v.phase ≠ .idle) ∧
      u.phase = .idle ∧ u.status = { s.status with done := true, err := false, errcode := .none } ∧
      u.h = sha256 (bytesFrom s s.src s.len.toNat) ∧
      (∀ k : Fin 32, u.byteAt (addrAfter s.dst k.val) = digestByte (sha256 (bytesFrom s s.src s.len.toNat)) k) ∧
      (∀ a, (∀ k : Fin 32, a ≠ addrAfter s.dst k.val) → u.byteAt a = s.byteAt a)

/-- 43_compressor.md R150: K[t] is the printed value, and the first 32 bits of the fractional part of the cube root of prime t (as
the spec recomputes it: the integer cube root of p * 2^96, modulo 2^32). The spec marks the values as general knowledge, and the
model takes them (notes/assumptions/17.md). -/
def Obligations.RoundConstantsAreTheTable : Prop :=
  kTable.toList =
    [0x428a2f98#32, 0x71374491#32, 0xb5c0fbcf#32, 0xe9b5dba5#32, 0x3956c25b#32, 0x59f111f1#32, 0x923f82a4#32, 0xab1c5ed5#32] ++
    [0xd807aa98#32, 0x12835b01#32, 0x243185be#32, 0x550c7dc3#32, 0x72be5d74#32, 0x80deb1fe#32, 0x9bdc06a7#32, 0xc19bf174#32] ++
    [0xe49b69c1#32, 0xefbe4786#32, 0x0fc19dc6#32, 0x240ca1cc#32, 0x2de92c6f#32, 0x4a7484aa#32, 0x5cb0a9dc#32, 0x76f988da#32] ++
    [0x983e5152#32, 0xa831c66d#32, 0xb00327c8#32, 0xbf597fc7#32, 0xc6e00bf3#32, 0xd5a79147#32, 0x06ca6351#32, 0x14292967#32] ++
    [0x27b70a85#32, 0x2e1b2138#32, 0x4d2c6dfc#32, 0x53380d13#32, 0x650a7354#32, 0x766a0abb#32, 0x81c2c92e#32, 0x92722c85#32] ++
    [0xa2bfe8a1#32, 0xa81a664b#32, 0xc24b8b70#32, 0xc76c51a3#32, 0xd192e819#32, 0xd6990624#32, 0xf40e3585#32, 0x106aa070#32] ++
    [0x19a4c116#32, 0x1e376c08#32, 0x2748774c#32, 0x34b0bcb5#32, 0x391c0cb3#32, 0x4ed8aa4a#32, 0x5b9cca4f#32, 0x682e6ff3#32] ++
    [0x748f82ee#32, 0x78a5636f#32, 0x84c87814#32, 0x8cc70208#32, 0x90befffa#32, 0xa4506ceb#32, 0xbef9a3f7#32, 0xc67178f2#32] ∧
  ∀ t : Fin 64, ∃ p n : Nat, firstPrimes[t.val]? = some p ∧ n ^ 3 ≤ p * 2 ^ 96 ∧ p * 2 ^ 96 < (n + 1) ^ 3 ∧
    (kTable.get t).toNat = n % 2 ^ 32
end

