-- ==== Sys2Proof/Laws/Decode.lean ====
section
/-! SUPPORT. The fields of a transaction word and of a CMD write's data: taking them out of the word they were put in, and
putting them together again. -/

namespace Sys2Proof

/-- Every bit of a transaction word (30_encoding.md R80). -/
theorem getLsbD_busWord (wr : Bool) (r : BitVec 6) (l : BitVec 2) (d : Word) (i : Nat) :
    (busWord wr r l d).getLsbD i =
      if i < 32 then d.getLsbD i else if i < 34 then l.getLsbD (i - 32)
      else if i < 40 then r.getLsbD (i - 34) else decide (i = 40) && wr := by
  change (BitVec.ofBool wr ++ (r ++ (l ++ d))).getLsbD i = _
  rw [BitVec.getLsbD_append, BitVec.getLsbD_append, BitVec.getLsbD_append, BitVec.getLsbD_ofBool]
  by_cases h1 : i < 32
  · simp [h1, show i < 34 by omega, show i < 40 by omega]
  · by_cases h2 : i < 34
    · simp [h1, h2, show i < 40 by omega, show i - 32 < 2 by omega]
    · by_cases h3 : i < 40
      · simp [h1, h2, h3]
      · have : (i - 40 = 0) = (i = 40) := by simp; omega
        simp [h1, h2, h3, this]

theorem wordData_busWord (wr : Bool) (r : BitVec 6) (l : BitVec 2) (d : Word) : wordData (busWord wr r l d) = d := by
  apply BitVec.eq_of_getLsbD_eq
  intro i hi
  simp [wordData, getLsbD_busWord, hi]

theorem wordLane_busWord (wr : Bool) (r : BitVec 6) (l : BitVec 2) (d : Word) : wordLane (busWord wr r l d) = l := by
  apply BitVec.eq_of_getLsbD_eq
  intro i hi
  simp [wordLane, getLsbD_busWord, hi, show 32 + i < 34 by omega]

theorem wordReg_busWord (wr : Bool) (r : BitVec 6) (l : BitVec 2) (d : Word) : wordReg (busWord wr r l d) = r := by
  apply BitVec.eq_of_getLsbD_eq
  intro i hi
  simp [wordReg, getLsbD_busWord, hi, show ¬34 + i < 32 by omega,
    show 34 + i < 40 by omega]

theorem extract_write (w : BitVec 41) : w.extractLsb' 40 1 = BitVec.ofBool (w.getLsbD 40) := by
  apply BitVec.eq_of_getLsbD_eq
  intro i hi
  have : i = 0 := by omega
  subst this
  simp

theorem wordIsWrite_eq (w : BitVec 41) : wordIsWrite w = w.getLsbD 40 := by
  rw [wordIsWrite, extract_write]; cases w.getLsbD 40 <;> rfl

theorem wordIsWrite_busWord (wr : Bool) (r : BitVec 6) (l : BitVec 2) (d : Word) :
    wordIsWrite (busWord wr r l d) = wr := by
  rw [wordIsWrite_eq, getLsbD_busWord]; simp

/-- A word is the transaction word of its fields. -/
theorem busWord_fields (w : BitVec 41) : busWord (wordIsWrite w) (wordReg w) (wordLane w) (wordData w) = w := by
  apply BitVec.eq_of_getLsbD_eq
  intro i hi
  rw [getLsbD_busWord, wordIsWrite_eq, wordReg, wordLane, wordData, BitVec.getLsbD_extractLsb',
    BitVec.getLsbD_extractLsb', BitVec.getLsbD_extractLsb']
  by_cases h1 : i < 32
  · simp [h1]
  · by_cases h2 : i < 34
    · simp [h1, h2, show i - 32 < 2 by omega, show 32 + (i - 32) = i by omega]
    · by_cases h3 : i < 40
      · simp [h1, h2, h3, show i - 34 < 6 by omega, show 34 + (i - 34) = i by omega]
      · simp [show i = 40 by omega]

/-- Every bit of a CMD write's data (30_encoding.md R83). -/
theorem getLsbD_commandData (c : Byte) (g : BitVec 24) (i : Nat) :
    (commandData c g).getLsbD i = if i < 8 then c.getLsbD i else g.getLsbD (i - 8) := by
  exact BitVec.getLsbD_append

theorem commandData_code (c : Byte) (g : BitVec 24) : (commandData c g).extractLsb' 0 8 = c := by
  apply BitVec.eq_of_getLsbD_eq
  intro i hi
  simp [getLsbD_commandData, hi]

theorem commandData_ignored (c : Byte) (g : BitVec 24) : (commandData c g).extractLsb' 8 24 = g := by
  apply BitVec.eq_of_getLsbD_eq
  intro i hi
  simp [getLsbD_commandData, hi]

/-- A CMD write's data is that of its code and ignored bits. -/
theorem commandData_fields (d : Word) : commandData (d.extractLsb' 0 8) (d.extractLsb' 8 24) = d := by
  apply BitVec.eq_of_getLsbD_eq
  intro i hi
  rw [getLsbD_commandData, BitVec.getLsbD_extractLsb', BitVec.getLsbD_extractLsb']
  by_cases h : i < 8
  · simp [h]
  · simp [h, show i - 8 < 24 by omega, show 8 + (i - 8) = i by omega]

theorem decodeSlot_encodeSlot (x : Slot) : decodeSlot (encodeSlot x) = x := by
  cases x
  case rsvd30 i => revert i; decide
  case hash i => revert i; decide
  case rsvd60 i => revert i; decide
  case rsvd80 i => revert i; decide
  all_goals rfl

theorem encodeSlot_decodeSlot (r : BitVec 6) : encodeSlot (decodeSlot r) = r := by revert r; decide

theorem phaseOfCode_phaseCode (p : Phase) : phaseOfCode (phaseCode p) = p := by cases p <;> rfl

theorem phaseCode_phaseOfCode (c : BitVec 3) : phaseCode (phaseOfCode c) = c := by revert c; decide

end Sys2Proof
end

