-- ==== Sys2Proof/Laws/Exec.lean ====
section
/-! SUPPORT. The dispatch as equations, one per constructor, and what a step can do, said once. -/

namespace Sys2Proof.Machine

@[simp] theorem exec_rdId (s : State) : exec (.rdId) s = execRdId s := rfl
@[simp] theorem exec_wrId (v : Word) (s : State) : exec (.wrId v) s = execWrId v s := rfl
@[simp] theorem exec_rdCtrl (s : State) : exec (.rdCtrl) s = execRdCtrl s := rfl
@[simp] theorem exec_wrCtrl (v : Word) (s : State) : exec (.wrCtrl v) s = execWrCtrl v s := rfl
@[simp] theorem exec_rdCmd (s : State) : exec (.rdCmd) s = execRdCmd s := rfl
@[simp] theorem exec_cmdNop (v : BitVec 24) (s : State) : exec (.cmdNop v) s = execCmdNop v s := rfl
@[simp] theorem exec_cmdHash (v : BitVec 24) (s : State) : exec (.cmdHash v) s = execCmdHash v s := rfl
@[simp] theorem exec_cmdIllegal (code : Byte) (v : BitVec 24) (s : State) : exec (.cmdIllegal code v) s = execCmdIllegal code v s := rfl
@[simp] theorem exec_rdStatus (s : State) : exec (.rdStatus) s = execRdStatus s := rfl
@[simp] theorem exec_wrStatus (v : Word) (s : State) : exec (.wrStatus v) s = execWrStatus v s := rfl
@[simp] theorem exec_rdSrcLo (s : State) : exec (.rdSrcLo) s = execRdSrcLo s := rfl
@[simp] theorem exec_wrSrcLo (v : Word) (s : State) : exec (.wrSrcLo v) s = execWrSrcLo v s := rfl
@[simp] theorem exec_rdSrcHi (s : State) : exec (.rdSrcHi) s = execRdSrcHi s := rfl
@[simp] theorem exec_wrSrcHi (v : Word) (s : State) : exec (.wrSrcHi v) s = execWrSrcHi v s := rfl
@[simp] theorem exec_rdLenLo (s : State) : exec (.rdLenLo) s = execRdLenLo s := rfl
@[simp] theorem exec_wrLenLo (v : Word) (s : State) : exec (.wrLenLo v) s = execWrLenLo v s := rfl
@[simp] theorem exec_rdLenHi (s : State) : exec (.rdLenHi) s = execRdLenHi s := rfl
@[simp] theorem exec_wrLenHi (v : Word) (s : State) : exec (.wrLenHi v) s = execWrLenHi v s := rfl
@[simp] theorem exec_rdDstLo (s : State) : exec (.rdDstLo) s = execRdDstLo s := rfl
@[simp] theorem exec_wrDstLo (v : Word) (s : State) : exec (.wrDstLo v) s = execWrDstLo v s := rfl
@[simp] theorem exec_rdDstHi (s : State) : exec (.rdDstHi) s = execRdDstHi s := rfl
@[simp] theorem exec_wrDstHi (v : Word) (s : State) : exec (.wrDstHi v) s = execWrDstHi v s := rfl
@[simp] theorem exec_rdErrAddrLo (s : State) : exec (.rdErrAddrLo) s = execRdErrAddrLo s := rfl
@[simp] theorem exec_wrErrAddrLo (v : Word) (s : State) : exec (.wrErrAddrLo v) s = execWrErrAddrLo v s := rfl
@[simp] theorem exec_rdErrAddrHi (s : State) : exec (.rdErrAddrHi) s = execRdErrAddrHi s := rfl
@[simp] theorem exec_wrErrAddrHi (v : Word) (s : State) : exec (.wrErrAddrHi v) s = execWrErrAddrHi v s := rfl
@[simp] theorem exec_rdHash (i : Fin 8) (s : State) : exec (.rdHash i) s = execRdHash i s := rfl
@[simp] theorem exec_wrHash (i : Fin 8) (v : Word) (s : State) : exec (.wrHash i v) s = execWrHash i v s := rfl
@[simp] theorem exec_rdRsvd30 (i : Fin 4) (s : State) : exec (.rdRsvd30 i) s = execRdRsvd30 i s := rfl
@[simp] theorem exec_wrRsvd30 (i : Fin 4) (v : Word) (s : State) : exec (.wrRsvd30 i v) s = execWrRsvd30 i v s := rfl
@[simp] theorem exec_rdRsvd60 (i : Fin 8) (s : State) : exec (.rdRsvd60 i) s = execRdRsvd60 i s := rfl
@[simp] theorem exec_wrRsvd60 (i : Fin 8) (v : Word) (s : State) : exec (.wrRsvd60 i v) s = execWrRsvd60 i v s := rfl
@[simp] theorem exec_rdRsvd80 (i : Fin 32) (s : State) : exec (.rdRsvd80 i) s = execRdRsvd80 i s := rfl
@[simp] theorem exec_wrRsvd80 (i : Fin 32) (v : Word) (s : State) : exec (.wrRsvd80 i v) s = execWrRsvd80 i v s := rfl
@[simp] theorem exec_misaligned1 (wr : Bool) (reg : BitVec 6) (v : Word) (s : State) : exec (.misaligned1 wr reg v) s = execMisaligned1 wr reg v s := rfl
@[simp] theorem exec_misaligned2 (wr : Bool) (reg : BitVec 6) (v : Word) (s : State) : exec (.misaligned2 wr reg v) s = execMisaligned2 wr reg v s := rfl
@[simp] theorem exec_misaligned3 (wr : Bool) (reg : BitVec 6) (v : Word) (s : State) : exec (.misaligned3 wr reg v) s = execMisaligned3 wr reg v s := rfl
@[simp] theorem exec_idle (s : State) : exec (.idle) s = execIdle s := rfl
@[simp] theorem exec_frame (s : State) : exec (.frame) s = execFrame s := rfl
@[simp] theorem exec_sched (s : State) : exec (.sched) s = execSched s := rfl
@[simp] theorem exec_round (s : State) : exec (.round) s = execRound s := rfl
@[simp] theorem exec_fold (s : State) : exec (.fold) s = execFold s := rfl
@[simp] theorem exec_write (s : State) : exec (.write) s = execWrite s := rfl
@[simp] theorem exec_phaseRsvd6 (s : State) : exec (.phaseRsvd6) s = execPhaseRsvd6 s := rfl
@[simp] theorem exec_phaseRsvd7 (s : State) : exec (.phaseRsvd7) s = execPhaseRsvd7 s := rfl

/-- A step that answers a next state ran an instruction, or was a turn that is none. -/
theorem step_next {s s' : State} (h : step s = .next s') :
    (∃ i t, fetch s = .run i t ∧ exec i t = .next s') ∨ fetch s = .moved s' := by
  unfold step at h
  split at h
  · exact .inl ⟨_, _, ‹_›, h⟩
  · cases h; exact .inr ‹_›
  · cases h

/-- A code that decodes to an instruction is run as that instruction. -/
theorem fetchCode_ok {c : Code} {i : Instr} (h : decode c = .ok i) (s : State) : fetchCode c s = .run i s := by
  simp [fetchCode, h]

/-- The PHASE code of a phase decodes to that phase's micro-step. -/
theorem decode_phaseCode (p : Phase) : decode (.phase (phaseCode p)) = .ok (decodePhase (phaseCode p)) := rfl

/-- With no input listed the engine has the turn. -/
theorem fetch_no_input {s : State} (h : s.inputs = []) : fetch s = .run (decodePhase (phaseCode s.phase)) s := by
  simp [fetch, h, fetchMicroStep, fetchCode, decode]

theorem phaseReserved_eq_false (s : State) : s.phaseReserved = false ↔ s.phase ≠ .unused6 ∧ s.phase ≠ .unused7 := by
  simp [State.phaseReserved]

/-- A listed input is taken from the list and has the turn. -/
theorem fetch_input {s : State} {x : Input} {rest : List Input} (h : s.inputs = x :: rest) (hr : s.phaseReserved = false) :
    fetch s = fetchInput x { s with inputs := rest } := by
  simp [fetch, h, hr]

/-- A state with PHASE 6 or 7 is refused whoever has the turn (30_encoding.md R88). -/
theorem step_reserved {s : State} (hr : s.phaseReserved = true) : step s = .refused .reservedPhase := by
  have key : ∀ r, fetchMicroStep { s with inputs := r } = .run (decodePhase (phaseCode s.phase)) { s with inputs := r } :=
    fun _ => rfl
  have hp : s.phase = .unused6 ∨ s.phase = .unused7 := by simpa [State.phaseReserved] using hr
  cases hi : s.inputs with
  | nil => rcases hp with hp | hp <;> rw [step, fetch_no_input hi, hp] <;> rfl
  | cons x rest => rcases hp with hp | hp <;> simp only [step, fetch, hi, hr, if_true, key] <;> rw [hp] <;> rfl

end Sys2Proof.Machine
end

