-- ==== Sys2Proof/Laws/Memory.lean ====
section
/-! SUPPORT. Memory: read after write, and the canonical form that every operation keeps. -/

namespace Sys2Proof.Machine

theorem Memory.read?_write_same (m : Memory) (a : Nat) (v : Byte) : (m.write a v).read? a = some v := by
  induction m with
  | nil => simp [Memory.write, Memory.read?]
  | cons c rest ih =>
    obtain ⟨b, u⟩ := c
    unfold Memory.write
    split
    · simp [Memory.read?]
    · split
      · simp [Memory.read?]
      · simp only [Memory.read?]
        rw [if_neg (by assumption), if_neg (by assumption)]
        exact ih

theorem Memory.read?_write_other (m : Memory) {a b : Nat} (v : Byte) (h : b ≠ a) :
    (m.write a v).read? b = m.read? b := by
  induction m with
  | nil => simp [Memory.write, Memory.read?, h]
  | cons c rest ih =>
    obtain ⟨x, u⟩ := c
    unfold Memory.write
    split
    · subst x; simp [Memory.read?, h]
    · split
      · simp only [Memory.read?, if_neg h]
        by_cases hb : b < a
        · rw [if_pos hb, if_neg (by omega), if_pos (by omega)]
        · rw [if_neg hb]
      · simp only [Memory.read?]
        rw [ih]

theorem Memory.risesFrom_write (m : Memory) (lo a : Nat) (v : Byte) (hm : m.risesFrom lo = true) (hlo : lo ≤ a)
    (ha : a < 2 ^ 64) : (m.write a v).risesFrom lo = true := by
  induction m generalizing lo with
  | nil => simp [-Nat.reducePow, Memory.write, Memory.risesFrom, hlo, ha]
  | cons c rest ih =>
    obtain ⟨b, u⟩ := c
    simp only [Memory.risesFrom, Bool.and_eq_true, decide_eq_true_eq] at hm
    unfold Memory.write
    split
    · subst b; simp [-Nat.reducePow, Memory.risesFrom, hm.1.1, ha, hm.2]
    · split
      · have : a + 1 ≤ b := by omega
        simp [-Nat.reducePow, Memory.risesFrom, hlo, ha, this, hm.1.2, hm.2]
      · have := ih (b + 1) hm.2 (by omega)
        simp [-Nat.reducePow, Memory.risesFrom, hm.1.1, hm.1.2, this]

/-- A write keeps the canonical form. -/
theorem Memory.wf_write {m : Memory} (hm : m.wf = true) (a : Addr) (v : Byte) : (m.write a.toNat v).wf = true :=
  Memory.risesFrom_write m 0 a.toNat v hm (Nat.zero_le _) a.isLt

/-- The memory at reset is in canonical form. -/
theorem Memory.wf_reset : State.reset.mem.wf = true := rfl

/-- mem_byte after a write at the same address. -/
theorem byteAt_write_same (s : State) (a : Addr) (v : Byte) :
    ({ s with mem := s.mem.write a.toNat v } : State).byteAt a = v := by
  simp [State.byteAt, Memory.read?_write_same]

/-- mem_byte after a write at another address. -/
theorem byteAt_write_other (s : State) {a b : Addr} (v : Byte) (h : b ≠ a) :
    ({ s with mem := s.mem.write a.toNat v } : State).byteAt b = s.byteAt b := by
  have : b.toNat ≠ a.toNat := fun e => h (BitVec.eq_of_toNat_eq e)
  simp [State.byteAt, Memory.read?_write_other _ _ this]

end Sys2Proof.Machine
end

