-- ==== Sys2Proof/Laws/State.lean ====
section
/-! SUPPORT. One lemma per field per named update of State, each true by rfl, so that no proof unfolds a record update. -/

namespace Sys2Proof.Machine

@[simp] theorem answer_h (s : State) (v : Word) : (s.answer v).h = s.h := rfl
@[simp] theorem answer_wr (s : State) (v : Word) : (s.answer v).wr = s.wr := rfl
@[simp] theorem answer_w (s : State) (v : Word) : (s.answer v).w = s.w := rfl
@[simp] theorem answer_blk (s : State) (v : Word) : (s.answer v).blk = s.blk := rfl
@[simp] theorem answer_cursor (s : State) (v : Word) : (s.answer v).cursor = s.cursor := rfl
@[simp] theorem answer_dstL (s : State) (v : Word) : (s.answer v).dstL = s.dstL := rfl
@[simp] theorem answer_phase (s : State) (v : Word) : (s.answer v).phase = s.phase := rfl
@[simp] theorem answer_t (s : State) (v : Word) : (s.answer v).t = s.t := rfl
@[simp] theorem answer_kw (s : State) (v : Word) : (s.answer v).kw = s.kw := rfl
@[simp] theorem answer_ie (s : State) (v : Word) : (s.answer v).ie = s.ie := rfl
@[simp] theorem answer_status (s : State) (v : Word) : (s.answer v).status = s.status := rfl
@[simp] theorem answer_errAddr (s : State) (v : Word) : (s.answer v).errAddr = s.errAddr := rfl
@[simp] theorem answer_ops (s : State) (v : Word) : (s.answer v).ops = s.ops := rfl
@[simp] theorem answer_mem (s : State) (v : Word) : (s.answer v).mem = s.mem := rfl
@[simp] theorem answer_platform (s : State) (v : Word) : (s.answer v).platform = s.platform := rfl
@[simp] theorem answer_rdata (s : State) (v : Word) : (s.answer v).rdata = some v := rfl
@[simp] theorem answer_mdata (s : State) (v : Word) : (s.answer v).mdata = s.mdata := rfl
@[simp] theorem answer_inputs (s : State) (v : Word) : (s.answer v).inputs = s.inputs := rfl
@[simp] theorem answer_draws (s : State) (v : Word) : (s.answer v).draws = s.draws := rfl
@[simp] theorem answer_racedIn (s : State) (v : Word) : (s.answer v).racedIn = s.racedIn := rfl
@[simp] theorem answer_racedOut (s : State) (v : Word) : (s.answer v).racedOut = s.racedOut := rfl
@[simp] theorem answer_overwritten (s : State) (v : Word) : (s.answer v).overwritten = s.overwritten := rfl
@[simp] theorem answer_posted (s : State) (v : Word) : (s.answer v).posted = s.posted := rfl
@[simp] theorem answer_waiting (s : State) (v : Word) : (s.answer v).waiting = s.waiting := rfl

@[simp] theorem answerDraw_h (s : State) : s.answerDraw.h = s.h := rfl
@[simp] theorem answerDraw_wr (s : State) : s.answerDraw.wr = s.wr := rfl
@[simp] theorem answerDraw_w (s : State) : s.answerDraw.w = s.w := rfl
@[simp] theorem answerDraw_blk (s : State) : s.answerDraw.blk = s.blk := rfl
@[simp] theorem answerDraw_cursor (s : State) : s.answerDraw.cursor = s.cursor := rfl
@[simp] theorem answerDraw_dstL (s : State) : s.answerDraw.dstL = s.dstL := rfl
@[simp] theorem answerDraw_phase (s : State) : s.answerDraw.phase = s.phase := rfl
@[simp] theorem answerDraw_t (s : State) : s.answerDraw.t = s.t := rfl
@[simp] theorem answerDraw_kw (s : State) : s.answerDraw.kw = s.kw := rfl
@[simp] theorem answerDraw_ie (s : State) : s.answerDraw.ie = s.ie := rfl
@[simp] theorem answerDraw_status (s : State) : s.answerDraw.status = s.status := rfl
@[simp] theorem answerDraw_errAddr (s : State) : s.answerDraw.errAddr = s.errAddr := rfl
@[simp] theorem answerDraw_ops (s : State) : s.answerDraw.ops = s.ops := rfl
@[simp] theorem answerDraw_mem (s : State) : s.answerDraw.mem = s.mem := rfl
@[simp] theorem answerDraw_platform (s : State) : s.answerDraw.platform = s.platform := rfl
@[simp] theorem answerDraw_rdata (s : State) : s.answerDraw.rdata = some (Config.freeWord s.draws) := rfl
@[simp] theorem answerDraw_mdata (s : State) : s.answerDraw.mdata = s.mdata := rfl
@[simp] theorem answerDraw_inputs (s : State) : s.answerDraw.inputs = s.inputs := rfl
@[simp] theorem answerDraw_draws (s : State) : s.answerDraw.draws = s.draws + 1 := rfl
@[simp] theorem answerDraw_racedIn (s : State) : s.answerDraw.racedIn = s.racedIn := rfl
@[simp] theorem answerDraw_racedOut (s : State) : s.answerDraw.racedOut = s.racedOut := rfl
@[simp] theorem answerDraw_overwritten (s : State) : s.answerDraw.overwritten = s.overwritten := rfl
@[simp] theorem answerDraw_posted (s : State) : s.answerDraw.posted = s.posted := rfl
@[simp] theorem answerDraw_waiting (s : State) : s.answerDraw.waiting = s.waiting := rfl

@[simp] theorem answerByte_h (s : State) (a : Addr) (v : Byte) : (s.answerByte a v).h = s.h := rfl
@[simp] theorem answerByte_wr (s : State) (a : Addr) (v : Byte) : (s.answerByte a v).wr = s.wr := rfl
@[simp] theorem answerByte_w (s : State) (a : Addr) (v : Byte) : (s.answerByte a v).w = s.w := rfl
@[simp] theorem answerByte_blk (s : State) (a : Addr) (v : Byte) : (s.answerByte a v).blk = s.blk := rfl
@[simp] theorem answerByte_cursor (s : State) (a : Addr) (v : Byte) : (s.answerByte a v).cursor = s.cursor := rfl
@[simp] theorem answerByte_dstL (s : State) (a : Addr) (v : Byte) : (s.answerByte a v).dstL = s.dstL := rfl
@[simp] theorem answerByte_phase (s : State) (a : Addr) (v : Byte) : (s.answerByte a v).phase = s.phase := rfl
@[simp] theorem answerByte_t (s : State) (a : Addr) (v : Byte) : (s.answerByte a v).t = s.t := rfl
@[simp] theorem answerByte_kw (s : State) (a : Addr) (v : Byte) : (s.answerByte a v).kw = s.kw := rfl
@[simp] theorem answerByte_ie (s : State) (a : Addr) (v : Byte) : (s.answerByte a v).ie = s.ie := rfl
@[simp] theorem answerByte_status (s : State) (a : Addr) (v : Byte) : (s.answerByte a v).status = s.status := rfl
@[simp] theorem answerByte_errAddr (s : State) (a : Addr) (v : Byte) : (s.answerByte a v).errAddr = s.errAddr := rfl
@[simp] theorem answerByte_ops (s : State) (a : Addr) (v : Byte) : (s.answerByte a v).ops = s.ops := rfl
@[simp] theorem answerByte_mem (s : State) (a : Addr) (v : Byte) : (s.answerByte a v).mem = s.mem := rfl
@[simp] theorem answerByte_platform (s : State) (a : Addr) (v : Byte) : (s.answerByte a v).platform = s.platform := rfl
@[simp] theorem answerByte_rdata (s : State) (a : Addr) (v : Byte) : (s.answerByte a v).rdata = s.rdata := rfl
@[simp] theorem answerByte_mdata (s : State) (a : Addr) (v : Byte) : (s.answerByte a v).mdata = [(a, v)] := rfl
@[simp] theorem answerByte_inputs (s : State) (a : Addr) (v : Byte) : (s.answerByte a v).inputs = s.inputs := rfl
@[simp] theorem answerByte_draws (s : State) (a : Addr) (v : Byte) : (s.answerByte a v).draws = s.draws := rfl
@[simp] theorem answerByte_racedIn (s : State) (a : Addr) (v : Byte) : (s.answerByte a v).racedIn = s.racedIn := rfl
@[simp] theorem answerByte_racedOut (s : State) (a : Addr) (v : Byte) : (s.answerByte a v).racedOut = s.racedOut := rfl
@[simp] theorem answerByte_overwritten (s : State) (a : Addr) (v : Byte) : (s.answerByte a v).overwritten = s.overwritten := rfl
@[simp] theorem answerByte_waiting (s : State) (a : Addr) (v : Byte) : (s.answerByte a v).waiting = s.waiting := rfl
@[simp] theorem answerByte_posted (s : State) (a : Addr) (v : Byte) : (s.answerByte a v).posted = s.posted := rfl

@[simp] theorem answerByteDraw_h (s : State) (a : Addr) (v : Byte) : (s.answerByteDraw a v).h = s.h := rfl
@[simp] theorem answerByteDraw_wr (s : State) (a : Addr) (v : Byte) : (s.answerByteDraw a v).wr = s.wr := rfl
@[simp] theorem answerByteDraw_w (s : State) (a : Addr) (v : Byte) : (s.answerByteDraw a v).w = s.w := rfl
@[simp] theorem answerByteDraw_blk (s : State) (a : Addr) (v : Byte) : (s.answerByteDraw a v).blk = s.blk := rfl
@[simp] theorem answerByteDraw_cursor (s : State) (a : Addr) (v : Byte) : (s.answerByteDraw a v).cursor = s.cursor := rfl
@[simp] theorem answerByteDraw_dstL (s : State) (a : Addr) (v : Byte) : (s.answerByteDraw a v).dstL = s.dstL := rfl
@[simp] theorem answerByteDraw_phase (s : State) (a : Addr) (v : Byte) : (s.answerByteDraw a v).phase = s.phase := rfl
@[simp] theorem answerByteDraw_t (s : State) (a : Addr) (v : Byte) : (s.answerByteDraw a v).t = s.t := rfl
@[simp] theorem answerByteDraw_kw (s : State) (a : Addr) (v : Byte) : (s.answerByteDraw a v).kw = s.kw := rfl
@[simp] theorem answerByteDraw_ie (s : State) (a : Addr) (v : Byte) : (s.answerByteDraw a v).ie = s.ie := rfl
@[simp] theorem answerByteDraw_status (s : State) (a : Addr) (v : Byte) : (s.answerByteDraw a v).status = s.status := rfl
@[simp] theorem answerByteDraw_errAddr (s : State) (a : Addr) (v : Byte) : (s.answerByteDraw a v).errAddr = s.errAddr := rfl
@[simp] theorem answerByteDraw_ops (s : State) (a : Addr) (v : Byte) : (s.answerByteDraw a v).ops = s.ops := rfl
@[simp] theorem answerByteDraw_mem (s : State) (a : Addr) (v : Byte) : (s.answerByteDraw a v).mem = s.mem := rfl
@[simp] theorem answerByteDraw_platform (s : State) (a : Addr) (v : Byte) : (s.answerByteDraw a v).platform = s.platform := rfl
@[simp] theorem answerByteDraw_rdata (s : State) (a : Addr) (v : Byte) : (s.answerByteDraw a v).rdata = s.rdata := rfl
@[simp] theorem answerByteDraw_mdata (s : State) (a : Addr) (v : Byte) : (s.answerByteDraw a v).mdata = [(a, v)] := rfl
@[simp] theorem answerByteDraw_inputs (s : State) (a : Addr) (v : Byte) : (s.answerByteDraw a v).inputs = s.inputs := rfl
@[simp] theorem answerByteDraw_draws (s : State) (a : Addr) (v : Byte) : (s.answerByteDraw a v).draws = s.draws + 1 := rfl
@[simp] theorem answerByteDraw_racedIn (s : State) (a : Addr) (v : Byte) : (s.answerByteDraw a v).racedIn = s.racedIn := rfl
@[simp] theorem answerByteDraw_racedOut (s : State) (a : Addr) (v : Byte) : (s.answerByteDraw a v).racedOut = s.racedOut := rfl
@[simp] theorem answerByteDraw_overwritten (s : State) (a : Addr) (v : Byte) : (s.answerByteDraw a v).overwritten = s.overwritten := rfl
@[simp] theorem answerByteDraw_waiting (s : State) (a : Addr) (v : Byte) : (s.answerByteDraw a v).waiting = s.waiting := rfl
@[simp] theorem answerByteDraw_posted (s : State) (a : Addr) (v : Byte) : (s.answerByteDraw a v).posted = s.posted := rfl

@[simp] theorem waitByte_h (s : State) (a : Addr) : (s.waitByte a).h = s.h := rfl
@[simp] theorem waitByte_wr (s : State) (a : Addr) : (s.waitByte a).wr = s.wr := rfl
@[simp] theorem waitByte_w (s : State) (a : Addr) : (s.waitByte a).w = s.w := rfl
@[simp] theorem waitByte_blk (s : State) (a : Addr) : (s.waitByte a).blk = s.blk := rfl
@[simp] theorem waitByte_cursor (s : State) (a : Addr) : (s.waitByte a).cursor = s.cursor := rfl
@[simp] theorem waitByte_dstL (s : State) (a : Addr) : (s.waitByte a).dstL = s.dstL := rfl
@[simp] theorem waitByte_phase (s : State) (a : Addr) : (s.waitByte a).phase = s.phase := rfl
@[simp] theorem waitByte_t (s : State) (a : Addr) : (s.waitByte a).t = s.t := rfl
@[simp] theorem waitByte_kw (s : State) (a : Addr) : (s.waitByte a).kw = s.kw := rfl
@[simp] theorem waitByte_ie (s : State) (a : Addr) : (s.waitByte a).ie = s.ie := rfl
@[simp] theorem waitByte_status (s : State) (a : Addr) : (s.waitByte a).status = s.status := rfl
@[simp] theorem waitByte_errAddr (s : State) (a : Addr) : (s.waitByte a).errAddr = s.errAddr := rfl
@[simp] theorem waitByte_ops (s : State) (a : Addr) : (s.waitByte a).ops = s.ops := rfl
@[simp] theorem waitByte_mem (s : State) (a : Addr) : (s.waitByte a).mem = s.mem := rfl
@[simp] theorem waitByte_platform (s : State) (a : Addr) : (s.waitByte a).platform = s.platform := rfl
@[simp] theorem waitByte_rdata (s : State) (a : Addr) : (s.waitByte a).rdata = s.rdata := rfl
@[simp] theorem waitByte_mdata (s : State) (a : Addr) : (s.waitByte a).mdata = s.mdata := rfl
@[simp] theorem waitByte_inputs (s : State) (a : Addr) : (s.waitByte a).inputs = s.inputs := rfl
@[simp] theorem waitByte_draws (s : State) (a : Addr) : (s.waitByte a).draws = s.draws + 1 := rfl
@[simp] theorem waitByte_racedIn (s : State) (a : Addr) : (s.waitByte a).racedIn = s.racedIn := rfl
@[simp] theorem waitByte_racedOut (s : State) (a : Addr) : (s.waitByte a).racedOut = s.racedOut := rfl
@[simp] theorem waitByte_overwritten (s : State) (a : Addr) : (s.waitByte a).overwritten = s.overwritten := rfl
@[simp] theorem waitByte_waiting (s : State) (a : Addr) : (s.waitByte a).waiting = s.waiting ++ [a] := rfl
@[simp] theorem waitByte_posted (s : State) (a : Addr) : (s.waitByte a).posted = s.posted := rfl

@[simp] theorem answerWritten_h (s : State) (a : Addr) : (s.answerWritten a).h = s.h := rfl
@[simp] theorem answerWritten_wr (s : State) (a : Addr) : (s.answerWritten a).wr = s.wr := rfl
@[simp] theorem answerWritten_w (s : State) (a : Addr) : (s.answerWritten a).w = s.w := rfl
@[simp] theorem answerWritten_blk (s : State) (a : Addr) : (s.answerWritten a).blk = s.blk := rfl
@[simp] theorem answerWritten_cursor (s : State) (a : Addr) : (s.answerWritten a).cursor = s.cursor := rfl
@[simp] theorem answerWritten_dstL (s : State) (a : Addr) : (s.answerWritten a).dstL = s.dstL := rfl
@[simp] theorem answerWritten_phase (s : State) (a : Addr) : (s.answerWritten a).phase = s.phase := rfl
@[simp] theorem answerWritten_t (s : State) (a : Addr) : (s.answerWritten a).t = s.t := rfl
@[simp] theorem answerWritten_kw (s : State) (a : Addr) : (s.answerWritten a).kw = s.kw := rfl
@[simp] theorem answerWritten_ie (s : State) (a : Addr) : (s.answerWritten a).ie = s.ie := rfl
@[simp] theorem answerWritten_status (s : State) (a : Addr) : (s.answerWritten a).status = s.status := rfl
@[simp] theorem answerWritten_errAddr (s : State) (a : Addr) : (s.answerWritten a).errAddr = s.errAddr := rfl
@[simp] theorem answerWritten_ops (s : State) (a : Addr) : (s.answerWritten a).ops = s.ops := rfl
@[simp] theorem answerWritten_mem (s : State) (a : Addr) : (s.answerWritten a).mem = s.mem := rfl
@[simp] theorem answerWritten_platform (s : State) (a : Addr) : (s.answerWritten a).platform = s.platform := rfl
@[simp] theorem answerWritten_rdata (s : State) (a : Addr) : (s.answerWritten a).rdata = s.rdata := rfl
@[simp] theorem answerWritten_mdata (s : State) (a : Addr) : (s.answerWritten a).mdata = if s.waiting.contains a then [(a, s.byteAt a)] else s.mdata := rfl
@[simp] theorem answerWritten_inputs (s : State) (a : Addr) : (s.answerWritten a).inputs = s.inputs := rfl
@[simp] theorem answerWritten_draws (s : State) (a : Addr) : (s.answerWritten a).draws = s.draws := rfl
@[simp] theorem answerWritten_racedIn (s : State) (a : Addr) : (s.answerWritten a).racedIn = s.racedIn := rfl
@[simp] theorem answerWritten_racedOut (s : State) (a : Addr) : (s.answerWritten a).racedOut = s.racedOut := rfl
@[simp] theorem answerWritten_overwritten (s : State) (a : Addr) : (s.answerWritten a).overwritten = s.overwritten := rfl
@[simp] theorem answerWritten_waiting (s : State) (a : Addr) : (s.answerWritten a).waiting = s.waiting.filter (· != a) := rfl
@[simp] theorem answerWritten_posted (s : State) (a : Addr) : (s.answerWritten a).posted = s.posted := rfl

@[simp] theorem answerWaiting_h (s : State) : s.answerWaiting.h = s.h := rfl
@[simp] theorem answerWaiting_wr (s : State) : s.answerWaiting.wr = s.wr := rfl
@[simp] theorem answerWaiting_w (s : State) : s.answerWaiting.w = s.w := rfl
@[simp] theorem answerWaiting_blk (s : State) : s.answerWaiting.blk = s.blk := rfl
@[simp] theorem answerWaiting_cursor (s : State) : s.answerWaiting.cursor = s.cursor := rfl
@[simp] theorem answerWaiting_dstL (s : State) : s.answerWaiting.dstL = s.dstL := rfl
@[simp] theorem answerWaiting_phase (s : State) : s.answerWaiting.phase = s.phase := rfl
@[simp] theorem answerWaiting_t (s : State) : s.answerWaiting.t = s.t := rfl
@[simp] theorem answerWaiting_kw (s : State) : s.answerWaiting.kw = s.kw := rfl
@[simp] theorem answerWaiting_ie (s : State) : s.answerWaiting.ie = s.ie := rfl
@[simp] theorem answerWaiting_status (s : State) : s.answerWaiting.status = s.status := rfl
@[simp] theorem answerWaiting_errAddr (s : State) : s.answerWaiting.errAddr = s.errAddr := rfl
@[simp] theorem answerWaiting_ops (s : State) : s.answerWaiting.ops = s.ops := rfl
@[simp] theorem answerWaiting_mem (s : State) : s.answerWaiting.mem = s.mem := rfl
@[simp] theorem answerWaiting_platform (s : State) : s.answerWaiting.platform = s.platform := rfl
@[simp] theorem answerWaiting_rdata (s : State) : s.answerWaiting.rdata = s.rdata := rfl
@[simp] theorem answerWaiting_mdata (s : State) : s.answerWaiting.mdata = if s.waiting.isEmpty then s.mdata else s.waiting.map fun a => (a, s.byteAt a) := rfl
@[simp] theorem answerWaiting_inputs (s : State) : s.answerWaiting.inputs = s.inputs := rfl
@[simp] theorem answerWaiting_draws (s : State) : s.answerWaiting.draws = s.draws := rfl
@[simp] theorem answerWaiting_racedIn (s : State) : s.answerWaiting.racedIn = s.racedIn := rfl
@[simp] theorem answerWaiting_racedOut (s : State) : s.answerWaiting.racedOut = s.racedOut := rfl
@[simp] theorem answerWaiting_overwritten (s : State) : s.answerWaiting.overwritten = s.overwritten := rfl
@[simp] theorem answerWaiting_waiting (s : State) : s.answerWaiting.waiting = [] := rfl
@[simp] theorem answerWaiting_posted (s : State) : s.answerWaiting.posted = s.posted := rfl

@[simp] theorem completeOk_h (s : State) : (completeOk s).h = s.h := rfl
@[simp] theorem completeOk_wr (s : State) : (completeOk s).wr = s.wr := rfl
@[simp] theorem completeOk_w (s : State) : (completeOk s).w = s.w := rfl
@[simp] theorem completeOk_blk (s : State) : (completeOk s).blk = s.blk := rfl
@[simp] theorem completeOk_cursor (s : State) : (completeOk s).cursor = s.cursor := rfl
@[simp] theorem completeOk_dstL (s : State) : (completeOk s).dstL = s.dstL := rfl
@[simp] theorem completeOk_phase (s : State) : (completeOk s).phase = .idle := rfl
@[simp] theorem completeOk_t (s : State) : (completeOk s).t = s.t := rfl
@[simp] theorem completeOk_kw (s : State) : (completeOk s).kw = s.kw := rfl
@[simp] theorem completeOk_ie (s : State) : (completeOk s).ie = s.ie := rfl
@[simp] theorem completeOk_status (s : State) : (completeOk s).status = { s.status with done := true } := rfl
@[simp] theorem completeOk_errAddr (s : State) : (completeOk s).errAddr = s.errAddr := rfl
@[simp] theorem completeOk_ops (s : State) : (completeOk s).ops = s.ops := rfl
@[simp] theorem completeOk_mem (s : State) : (completeOk s).mem = s.mem := rfl
@[simp] theorem completeOk_platform (s : State) : (completeOk s).platform = s.platform := rfl
@[simp] theorem completeOk_rdata (s : State) : (completeOk s).rdata = s.rdata := rfl
@[simp] theorem completeOk_mdata (s : State) : (completeOk s).mdata = s.mdata := rfl
@[simp] theorem completeOk_inputs (s : State) : (completeOk s).inputs = s.inputs := rfl
@[simp] theorem completeOk_draws (s : State) : (completeOk s).draws = s.draws := rfl
@[simp] theorem completeOk_racedIn (s : State) : (completeOk s).racedIn = s.racedIn := rfl
@[simp] theorem completeOk_racedOut (s : State) : (completeOk s).racedOut = s.racedOut := rfl
@[simp] theorem completeOk_overwritten (s : State) : (completeOk s).overwritten = s.overwritten := rfl
@[simp] theorem completeOk_posted (s : State) : (completeOk s).posted = s.posted := rfl
@[simp] theorem completeOk_waiting (s : State) : (completeOk s).waiting = s.waiting := rfl

@[simp] theorem completeError_h (s : State) (c : ErrCode) (a : Addr) : (completeError s c a).h = s.h := rfl
@[simp] theorem completeError_wr (s : State) (c : ErrCode) (a : Addr) : (completeError s c a).wr = s.wr := rfl
@[simp] theorem completeError_w (s : State) (c : ErrCode) (a : Addr) : (completeError s c a).w = s.w := rfl
@[simp] theorem completeError_blk (s : State) (c : ErrCode) (a : Addr) : (completeError s c a).blk = s.blk := rfl
@[simp] theorem completeError_cursor (s : State) (c : ErrCode) (a : Addr) : (completeError s c a).cursor = s.cursor := rfl
@[simp] theorem completeError_dstL (s : State) (c : ErrCode) (a : Addr) : (completeError s c a).dstL = s.dstL := rfl
@[simp] theorem completeError_phase (s : State) (c : ErrCode) (a : Addr) : (completeError s c a).phase = .idle := rfl
@[simp] theorem completeError_t (s : State) (c : ErrCode) (a : Addr) : (completeError s c a).t = s.t := rfl
@[simp] theorem completeError_kw (s : State) (c : ErrCode) (a : Addr) : (completeError s c a).kw = s.kw := rfl
@[simp] theorem completeError_ie (s : State) (c : ErrCode) (a : Addr) : (completeError s c a).ie = s.ie := rfl
@[simp] theorem completeError_status (s : State) (c : ErrCode) (a : Addr) : (completeError s c a).status = { s.status with done := true, err := true, errcode := c } := rfl
@[simp] theorem completeError_errAddr (s : State) (c : ErrCode) (a : Addr) : (completeError s c a).errAddr = a := rfl
@[simp] theorem completeError_ops (s : State) (c : ErrCode) (a : Addr) : (completeError s c a).ops = s.ops := rfl
@[simp] theorem completeError_mem (s : State) (c : ErrCode) (a : Addr) : (completeError s c a).mem = s.mem := rfl
@[simp] theorem completeError_platform (s : State) (c : ErrCode) (a : Addr) : (completeError s c a).platform = s.platform := rfl
@[simp] theorem completeError_rdata (s : State) (c : ErrCode) (a : Addr) : (completeError s c a).rdata = s.rdata := rfl
@[simp] theorem completeError_mdata (s : State) (c : ErrCode) (a : Addr) : (completeError s c a).mdata = s.mdata := rfl
@[simp] theorem completeError_inputs (s : State) (c : ErrCode) (a : Addr) : (completeError s c a).inputs = s.inputs := rfl
@[simp] theorem completeError_draws (s : State) (c : ErrCode) (a : Addr) : (completeError s c a).draws = s.draws := rfl
@[simp] theorem completeError_racedIn (s : State) (c : ErrCode) (a : Addr) : (completeError s c a).racedIn = s.racedIn := rfl
@[simp] theorem completeError_racedOut (s : State) (c : ErrCode) (a : Addr) : (completeError s c a).racedOut = s.racedOut := rfl
@[simp] theorem completeError_overwritten (s : State) (c : ErrCode) (a : Addr) : (completeError s c a).overwritten = s.overwritten := rfl
@[simp] theorem completeError_posted (s : State) (c : ErrCode) (a : Addr) : (completeError s c a).posted = s.posted := rfl
@[simp] theorem completeError_waiting (s : State) (c : ErrCode) (a : Addr) : (completeError s c a).waiting = s.waiting := rfl

@[simp] theorem acknowledge_h (s : State) (v : Word) : (acknowledge s v).h = s.h := rfl
@[simp] theorem acknowledge_wr (s : State) (v : Word) : (acknowledge s v).wr = s.wr := rfl
@[simp] theorem acknowledge_w (s : State) (v : Word) : (acknowledge s v).w = s.w := rfl
@[simp] theorem acknowledge_blk (s : State) (v : Word) : (acknowledge s v).blk = s.blk := rfl
@[simp] theorem acknowledge_cursor (s : State) (v : Word) : (acknowledge s v).cursor = s.cursor := rfl
@[simp] theorem acknowledge_dstL (s : State) (v : Word) : (acknowledge s v).dstL = s.dstL := rfl
@[simp] theorem acknowledge_phase (s : State) (v : Word) : (acknowledge s v).phase = s.phase := rfl
@[simp] theorem acknowledge_t (s : State) (v : Word) : (acknowledge s v).t = s.t := rfl
@[simp] theorem acknowledge_kw (s : State) (v : Word) : (acknowledge s v).kw = s.kw := rfl
@[simp] theorem acknowledge_ie (s : State) (v : Word) : (acknowledge s v).ie = s.ie := rfl
@[simp] theorem acknowledge_status (s : State) (v : Word) : (acknowledge s v).status = s.status.clear v := rfl
@[simp] theorem acknowledge_errAddr (s : State) (v : Word) : (acknowledge s v).errAddr = s.errAddr := rfl
@[simp] theorem acknowledge_ops (s : State) (v : Word) : (acknowledge s v).ops = s.ops := rfl
@[simp] theorem acknowledge_mem (s : State) (v : Word) : (acknowledge s v).mem = s.mem := rfl
@[simp] theorem acknowledge_platform (s : State) (v : Word) : (acknowledge s v).platform = s.platform := rfl
@[simp] theorem acknowledge_rdata (s : State) (v : Word) : (acknowledge s v).rdata = s.rdata := rfl
@[simp] theorem acknowledge_mdata (s : State) (v : Word) : (acknowledge s v).mdata = s.mdata := rfl
@[simp] theorem acknowledge_inputs (s : State) (v : Word) : (acknowledge s v).inputs = s.inputs := rfl
@[simp] theorem acknowledge_draws (s : State) (v : Word) : (acknowledge s v).draws = s.draws := rfl
@[simp] theorem acknowledge_racedIn (s : State) (v : Word) : (acknowledge s v).racedIn = s.racedIn := rfl
@[simp] theorem acknowledge_racedOut (s : State) (v : Word) : (acknowledge s v).racedOut = s.racedOut := rfl
@[simp] theorem acknowledge_overwritten (s : State) (v : Word) : (acknowledge s v).overwritten = s.overwritten := rfl
@[simp] theorem acknowledge_posted (s : State) (v : Word) : (acknowledge s v).posted = s.posted := rfl
@[simp] theorem acknowledge_waiting (s : State) (v : Word) : (acknowledge s v).waiting = s.waiting := rfl

@[simp] theorem overrun_h (s : State) : (overrun s).h = s.h := rfl
@[simp] theorem overrun_wr (s : State) : (overrun s).wr = s.wr := rfl
@[simp] theorem overrun_w (s : State) : (overrun s).w = s.w := rfl
@[simp] theorem overrun_blk (s : State) : (overrun s).blk = s.blk := rfl
@[simp] theorem overrun_cursor (s : State) : (overrun s).cursor = s.cursor := rfl
@[simp] theorem overrun_dstL (s : State) : (overrun s).dstL = s.dstL := rfl
@[simp] theorem overrun_phase (s : State) : (overrun s).phase = s.phase := rfl
@[simp] theorem overrun_t (s : State) : (overrun s).t = s.t := rfl
@[simp] theorem overrun_kw (s : State) : (overrun s).kw = s.kw := rfl
@[simp] theorem overrun_ie (s : State) : (overrun s).ie = s.ie := rfl
@[simp] theorem overrun_status (s : State) : (overrun s).status = { s.status with ovr := true } := rfl
@[simp] theorem overrun_errAddr (s : State) : (overrun s).errAddr = s.errAddr := rfl
@[simp] theorem overrun_ops (s : State) : (overrun s).ops = s.ops := rfl
@[simp] theorem overrun_mem (s : State) : (overrun s).mem = s.mem := rfl
@[simp] theorem overrun_platform (s : State) : (overrun s).platform = s.platform := rfl
@[simp] theorem overrun_rdata (s : State) : (overrun s).rdata = s.rdata := rfl
@[simp] theorem overrun_mdata (s : State) : (overrun s).mdata = s.mdata := rfl
@[simp] theorem overrun_inputs (s : State) : (overrun s).inputs = s.inputs := rfl
@[simp] theorem overrun_draws (s : State) : (overrun s).draws = s.draws := rfl
@[simp] theorem overrun_racedIn (s : State) : (overrun s).racedIn = s.racedIn := rfl
@[simp] theorem overrun_racedOut (s : State) : (overrun s).racedOut = s.racedOut := rfl
@[simp] theorem overrun_overwritten (s : State) : (overrun s).overwritten = s.overwritten := rfl
@[simp] theorem overrun_posted (s : State) : (overrun s).posted = s.posted := rfl
@[simp] theorem overrun_waiting (s : State) : (overrun s).waiting = s.waiting := rfl

@[simp] theorem clearCompletion_h (s : State) : (clearCompletion s).h = s.h := rfl
@[simp] theorem clearCompletion_wr (s : State) : (clearCompletion s).wr = s.wr := rfl
@[simp] theorem clearCompletion_w (s : State) : (clearCompletion s).w = s.w := rfl
@[simp] theorem clearCompletion_blk (s : State) : (clearCompletion s).blk = s.blk := rfl
@[simp] theorem clearCompletion_cursor (s : State) : (clearCompletion s).cursor = s.cursor := rfl
@[simp] theorem clearCompletion_dstL (s : State) : (clearCompletion s).dstL = s.dstL := rfl
@[simp] theorem clearCompletion_phase (s : State) : (clearCompletion s).phase = s.phase := rfl
@[simp] theorem clearCompletion_t (s : State) : (clearCompletion s).t = s.t := rfl
@[simp] theorem clearCompletion_kw (s : State) : (clearCompletion s).kw = s.kw := rfl
@[simp] theorem clearCompletion_ie (s : State) : (clearCompletion s).ie = s.ie := rfl
@[simp] theorem clearCompletion_status (s : State) : (clearCompletion s).status = s.status.accept := rfl
@[simp] theorem clearCompletion_errAddr (s : State) : (clearCompletion s).errAddr = 0#64 := rfl
@[simp] theorem clearCompletion_ops (s : State) : (clearCompletion s).ops = s.ops := rfl
@[simp] theorem clearCompletion_mem (s : State) : (clearCompletion s).mem = s.mem := rfl
@[simp] theorem clearCompletion_platform (s : State) : (clearCompletion s).platform = s.platform := rfl
@[simp] theorem clearCompletion_rdata (s : State) : (clearCompletion s).rdata = s.rdata := rfl
@[simp] theorem clearCompletion_mdata (s : State) : (clearCompletion s).mdata = s.mdata := rfl
@[simp] theorem clearCompletion_inputs (s : State) : (clearCompletion s).inputs = s.inputs := rfl
@[simp] theorem clearCompletion_draws (s : State) : (clearCompletion s).draws = s.draws := rfl
@[simp] theorem clearCompletion_racedIn (s : State) : (clearCompletion s).racedIn = s.racedIn := rfl
@[simp] theorem clearCompletion_racedOut (s : State) : (clearCompletion s).racedOut = s.racedOut := rfl
@[simp] theorem clearCompletion_overwritten (s : State) : (clearCompletion s).overwritten = s.overwritten := rfl
@[simp] theorem clearCompletion_posted (s : State) : (clearCompletion s).posted = s.posted := rfl
@[simp] theorem clearCompletion_waiting (s : State) : (clearCompletion s).waiting = s.waiting := rfl

@[simp] theorem latchOperation_h (s : State) : (latchOperation s).h = ivTable := rfl
@[simp] theorem latchOperation_wr (s : State) : (latchOperation s).wr = s.wr := rfl
@[simp] theorem latchOperation_w (s : State) : (latchOperation s).w = s.w := rfl
@[simp] theorem latchOperation_blk (s : State) : (latchOperation s).blk = s.blk := rfl
@[simp] theorem latchOperation_cursor (s : State) : (latchOperation s).cursor = ⟨s.src, s.len, s.len, false, false⟩ := rfl
@[simp] theorem latchOperation_dstL (s : State) : (latchOperation s).dstL = s.dst := rfl
@[simp] theorem latchOperation_phase (s : State) : (latchOperation s).phase = .frame := rfl
@[simp] theorem latchOperation_t (s : State) : (latchOperation s).t = 0 := rfl
@[simp] theorem latchOperation_kw (s : State) : (latchOperation s).kw = 0 := rfl
@[simp] theorem latchOperation_ie (s : State) : (latchOperation s).ie = s.ie := rfl
@[simp] theorem latchOperation_status (s : State) : (latchOperation s).status = s.status := rfl
@[simp] theorem latchOperation_errAddr (s : State) : (latchOperation s).errAddr = s.errAddr := rfl
@[simp] theorem latchOperation_ops (s : State) : (latchOperation s).ops = s.ops := rfl
@[simp] theorem latchOperation_mem (s : State) : (latchOperation s).mem = s.mem := rfl
@[simp] theorem latchOperation_platform (s : State) : (latchOperation s).platform = s.platform := rfl
@[simp] theorem latchOperation_rdata (s : State) : (latchOperation s).rdata = s.rdata := rfl
@[simp] theorem latchOperation_mdata (s : State) : (latchOperation s).mdata = s.mdata := rfl
@[simp] theorem latchOperation_inputs (s : State) : (latchOperation s).inputs = s.inputs := rfl
@[simp] theorem latchOperation_draws (s : State) : (latchOperation s).draws = s.draws := rfl
@[simp] theorem latchOperation_racedIn (s : State) : (latchOperation s).racedIn = (s.posted.map (·.1)).filter (within s.src s.len.toNat) := rfl
@[simp] theorem latchOperation_racedOut (s : State) : (latchOperation s).racedOut = [] := rfl
@[simp] theorem latchOperation_overwritten (s : State) : (latchOperation s).overwritten = [] := rfl
@[simp] theorem latchOperation_posted (s : State) : (latchOperation s).posted = s.posted := rfl
@[simp] theorem latchOperation_waiting (s : State) : (latchOperation s).waiting = s.waiting := rfl

@[simp] theorem afterRefusedRead_h (s : State) (d : Nat) : (afterRefusedRead s d).h = s.h := rfl
@[simp] theorem afterRefusedRead_wr (s : State) (d : Nat) : (afterRefusedRead s d).wr = s.wr := rfl
@[simp] theorem afterRefusedRead_w (s : State) (d : Nat) : (afterRefusedRead s d).w = s.w := rfl
@[simp] theorem afterRefusedRead_blk (s : State) (d : Nat) : (afterRefusedRead s d).blk = freeBlock d := rfl
@[simp] theorem afterRefusedRead_dstL (s : State) (d : Nat) : (afterRefusedRead s d).dstL = s.dstL := rfl
@[simp] theorem afterRefusedRead_phase (s : State) (d : Nat) : (afterRefusedRead s d).phase = s.phase := rfl
@[simp] theorem afterRefusedRead_t (s : State) (d : Nat) : (afterRefusedRead s d).t = s.t := rfl
@[simp] theorem afterRefusedRead_kw (s : State) (d : Nat) : (afterRefusedRead s d).kw = s.kw := rfl
@[simp] theorem afterRefusedRead_ie (s : State) (d : Nat) : (afterRefusedRead s d).ie = s.ie := rfl
@[simp] theorem afterRefusedRead_status (s : State) (d : Nat) : (afterRefusedRead s d).status = s.status := rfl
@[simp] theorem afterRefusedRead_errAddr (s : State) (d : Nat) : (afterRefusedRead s d).errAddr = s.errAddr := rfl
@[simp] theorem afterRefusedRead_ops (s : State) (d : Nat) : (afterRefusedRead s d).ops = s.ops := rfl
@[simp] theorem afterRefusedRead_mem (s : State) (d : Nat) : (afterRefusedRead s d).mem = s.mem := rfl
@[simp] theorem afterRefusedRead_platform (s : State) (d : Nat) : (afterRefusedRead s d).platform = s.platform := rfl
@[simp] theorem afterRefusedRead_rdata (s : State) (d : Nat) : (afterRefusedRead s d).rdata = s.rdata := rfl
@[simp] theorem afterRefusedRead_mdata (s : State) (d : Nat) : (afterRefusedRead s d).mdata = s.mdata := rfl
@[simp] theorem afterRefusedRead_inputs (s : State) (d : Nat) : (afterRefusedRead s d).inputs = s.inputs := rfl
@[simp] theorem afterRefusedRead_draws (s : State) (d : Nat) : (afterRefusedRead s d).draws = d + 64 := rfl
@[simp] theorem afterRefusedRead_racedIn (s : State) (d : Nat) : (afterRefusedRead s d).racedIn = s.racedIn := rfl
@[simp] theorem afterRefusedRead_racedOut (s : State) (d : Nat) : (afterRefusedRead s d).racedOut = s.racedOut := rfl
@[simp] theorem afterRefusedRead_overwritten (s : State) (d : Nat) : (afterRefusedRead s d).overwritten = s.overwritten := rfl
@[simp] theorem afterRefusedRead_posted (s : State) (d : Nat) : (afterRefusedRead s d).posted = s.posted := rfl
@[simp] theorem afterRefusedRead_waiting (s : State) (d : Nat) : (afterRefusedRead s d).waiting = s.waiting := rfl

@[simp] theorem resetEngine_h (s : State) : (resetEngine s).h = Vector.replicate 8 0#32 := rfl
@[simp] theorem resetEngine_wr (s : State) : (resetEngine s).wr = freeWords 8 s.draws := rfl
@[simp] theorem resetEngine_w (s : State) : (resetEngine s).w = freeWords 64 (s.draws + 8) := rfl
@[simp] theorem resetEngine_blk (s : State) : (resetEngine s).blk = freeBlock s.draws := rfl
@[simp] theorem resetEngine_cursor (s : State) : (resetEngine s).cursor = Cursor.reset := rfl
@[simp] theorem resetEngine_dstL (s : State) : (resetEngine s).dstL = 0#64 := rfl
@[simp] theorem resetEngine_phase (s : State) : (resetEngine s).phase = .idle := rfl
@[simp] theorem resetEngine_t (s : State) : (resetEngine s).t = 0 := rfl
@[simp] theorem resetEngine_kw (s : State) : (resetEngine s).kw = 0 := rfl
@[simp] theorem resetEngine_ie (s : State) : (resetEngine s).ie = false := rfl
@[simp] theorem resetEngine_status (s : State) : (resetEngine s).status = Status.reset := rfl
@[simp] theorem resetEngine_errAddr (s : State) : (resetEngine s).errAddr = 0#64 := rfl
@[simp] theorem resetEngine_ops (s : State) : (resetEngine s).ops = OperandRegs.reset := rfl
@[simp] theorem resetEngine_mem (s : State) : (resetEngine s).mem = s.mem := rfl
@[simp] theorem resetEngine_platform (s : State) : (resetEngine s).platform = s.platform := rfl
@[simp] theorem resetEngine_rdata (s : State) : (resetEngine s).rdata = s.rdata := rfl
@[simp] theorem resetEngine_mdata (s : State) : (resetEngine s).mdata = s.answerWaiting.mdata := rfl
@[simp] theorem resetEngine_inputs (s : State) : (resetEngine s).inputs = s.inputs := rfl
@[simp] theorem resetEngine_draws (s : State) : (resetEngine s).draws = s.draws + 72 := rfl
@[simp] theorem resetEngine_racedIn (s : State) : (resetEngine s).racedIn = [] := rfl
@[simp] theorem resetEngine_racedOut (s : State) : (resetEngine s).racedOut = [] := rfl
@[simp] theorem resetEngine_overwritten (s : State) : (resetEngine s).overwritten = [] := rfl
@[simp] theorem resetEngine_posted (s : State) : (resetEngine s).posted = s.posted := rfl
@[simp] theorem resetEngine_waiting (s : State) : (resetEngine s).waiting = [] := rfl

@[simp] theorem afterRefusedRead_lenL (s : State) (d : Nat) : (afterRefusedRead s d).cursor.lenL = s.cursor.lenL := rfl

end Sys2Proof.Machine
end

