-- ==== Sys2Proof/Laws/Ops.lean ====
section
/-! SUPPORT. One lemma per shared operation, saying what it does: reads, the padder's block, the scheduler, the host's
memory accesses, the engine's store. -/

namespace Sys2Proof.Machine

open Sys2Proof.Safety

/-! ### Addresses. -/

@[simp] theorem addrAfter_zero (a : Addr) : addrAfter a 0 = a := by simp [addrAfter]

theorem addrAfter_addrAfter (a : Addr) (m n : Nat) : addrAfter (addrAfter a m) n = addrAfter a (m + n) := by
  simp [addrAfter, BitVec.add_assoc, BitVec.ofNat_add]

/-- An address a run reaches without passing the top of memory is the exact sum (20_memory.md R71). -/
theorem addrAfter_toNat {a : Addr} {n : Nat} (h : a.toNat + n < 2 ^ 64) : (addrAfter a n).toNat = a.toNat + n := by
  simp only [addrAfter, BitVec.toNat_add, BitVec.toNat_ofNat]
  omega

theorem digestAddr_eq (s : State) : s.digestAddr = addrAfter s.dstL s.kw.val := rfl

/-! ### Reads. -/

/-- An admitted run of ordinary memory is read whole, and a byte that is no race is the memory's. -/
theorem readRun_admitted (s : State) (n : Nat) (a : Addr) (d : Nat) (h : AdmittedRun s a n) :
    ∃ bs d', s.readRun n a d = .bytes bs d' ∧ bs.length = n ∧
      ∀ j, j < n → addrAfter a j ∉ s.racedIn → bs[j]? = some (s.byteAt (addrAfter a j)) := by
  induction n generalizing a d with
  | zero => exact ⟨[], d, rfl, rfl, by omega⟩
  | succ n ih =>
    have h0 := h 0 (by omega)
    rw [addrAfter_zero] at h0
    have hs : AdmittedRun s (addrAfter a 1) n := fun j hj => by
      rw [addrAfter_addrAfter, Nat.add_comm]; exact h (j + 1) (by omega)
    by_cases hr : a ∈ s.racedIn
    · obtain ⟨bs, d', e, hl, hb⟩ := ih (addrAfter a 1) (d + 1) hs
      refine ⟨Config.freeByte d :: bs, d', by simp [State.readRun, h0, hr, e], by simp [hl], ?_⟩
      intro j hj hn
      cases j with
      | zero => simp_all
      | succ j =>
        have := hb j (by omega)
        rw [addrAfter_addrAfter, Nat.add_comm 1 j] at this
        simpa using this hn
    · obtain ⟨bs, d', e, hl, hb⟩ := ih (addrAfter a 1) d hs
      refine ⟨s.byteAt a :: bs, d', by simp [State.readRun, h0, hr, e], by simp [hl], ?_⟩
      intro j hj hn
      cases j with
      | zero => simp
      | succ j =>
        have := hb j (by omega)
        rw [addrAfter_addrAfter, Nat.add_comm 1 j] at this
        simpa using this hn

/-- An admitted run that is no race reads what the memory holds, and draws nothing. -/
theorem readRun_plain (s : State) (n : Nat) (a : Addr) (d : Nat) (h : AdmittedRun s a n)
    (hr : ∀ j, j < n → addrAfter a j ∉ s.racedIn) : s.readRun n a d = .bytes (bytesFrom s a n) d := by
  induction n generalizing a with
  | zero => rfl
  | succ n ih =>
    have h0 := h 0 (by omega)
    have hr0 := hr 0 (by omega)
    rw [addrAfter_zero] at h0 hr0
    have e := ih (addrAfter a 1)
      (fun j hj => by rw [addrAfter_addrAfter, Nat.add_comm]; exact h (j + 1) (by omega))
      (fun j hj => by rw [addrAfter_addrAfter, Nat.add_comm]; exact hr (j + 1) (by omega))
    have hb : bytesFrom s a (n + 1) = s.byteAt a :: bytesFrom s (addrAfter a 1) n := by
      simp [bytesFrom, List.range_succ_eq_map, Function.comp_def, addrAfter_addrAfter, Nat.add_comm]
    simp [State.readRun, h0, hr0, e, hb]

/-- The first refused read of a run ends it there (41_padder.md R128). -/
theorem readRun_refused (s : State) (n j : Nat) (a : Addr) (d : Nat) (hj : j < n) (h : AdmittedRun s a j)
    (hx : s.admitR (addrAfter a j) = false) : ∃ d', s.readRun n a d = .refusedAt (addrAfter a j) d' := by
  induction j generalizing n a d with
  | zero =>
    obtain ⟨n, rfl⟩ : ∃ m, n = m + 1 := ⟨n - 1, by omega⟩
    simp_all [State.readRun]
  | succ j ih =>
    obtain ⟨n, rfl⟩ : ∃ m, n = m + 1 := ⟨n - 1, by omega⟩
    have h0 := h 0 (by omega)
    rw [addrAfter_zero] at h0
    have hs : AdmittedRun s (addrAfter a 1) j := fun i hi => by
      rw [addrAfter_addrAfter, Nat.add_comm]; exact h (i + 1) (by omega)
    have hy : s.admitR (addrAfter (addrAfter a 1) j) = false := by
      rw [addrAfter_addrAfter, Nat.add_comm]; exact hx
    rw [show addrAfter a (j + 1) = addrAfter (addrAfter a 1) j by rw [addrAfter_addrAfter, Nat.add_comm]]
    by_cases hr : a ∈ s.racedIn
    · obtain ⟨d', e⟩ := ih n (addrAfter a 1) (d + 1) (by omega) hs hy
      exact ⟨d', by simp [State.readRun, h0, hr, e]⟩
    · obtain ⟨d', e⟩ := ih n (addrAfter a 1) d (by omega) hs hy
      exact ⟨d', by simp [State.readRun, h0, hr, e]⟩

/-- The first read with side effects of a run ends it there (20_memory.md R67). -/
theorem readRun_effect (s : State) (n j : Nat) (a : Addr) (d : Nat) (hj : j < n) (h : AdmittedRun s a j)
    (ha : s.admitR (addrAfter a j) = true) (hx : s.readHasEffect (addrAfter a j) = true) :
    s.readRun n a d = .effectAt (addrAfter a j) := by
  induction j generalizing n a d with
  | zero =>
    obtain ⟨n, rfl⟩ : ∃ m, n = m + 1 := ⟨n - 1, by omega⟩
    simp_all [State.readRun]
  | succ j ih =>
    obtain ⟨n, rfl⟩ : ∃ m, n = m + 1 := ⟨n - 1, by omega⟩
    have h0 := h 0 (by omega)
    rw [addrAfter_zero] at h0
    have hs : AdmittedRun s (addrAfter a 1) j := fun i hi => by
      rw [addrAfter_addrAfter, Nat.add_comm]; exact h (i + 1) (by omega)
    have e : addrAfter a (j + 1) = addrAfter (addrAfter a 1) j := by rw [addrAfter_addrAfter, Nat.add_comm]
    rw [e] at ha hx ⊢
    by_cases hr : a ∈ s.racedIn
    · simp [State.readRun, h0, hr, ih n (addrAfter a 1) (d + 1) (by omega) hs ha hx]
    · simp [State.readRun, h0, hr, ih n (addrAfter a 1) d (by omega) hs ha hx]

/-- Where no read has side effects, a run never ends for that reason. -/
theorem readRun_no_effect (s : State) (h : s.platform.readEffects = []) (n : Nat) (a : Addr) (d : Nat) (x : Addr) :
    s.readRun n a d ≠ .effectAt x := by
  induction n generalizing a d with
  | zero => simp [State.readRun]
  | succ n ih =>
    simp only [State.readRun, State.readHasEffect, h, List.any_nil]
    split
    · split
      · contradiction
      · split
        · split
          · simp
          · exact ih _ _
        · split
          · simp
          · exact ih _ _
    · simp

/-- A run that is read whole has its length. -/
theorem readRun_length {s : State} {n : Nat} {a : Addr} {d : Nat} {bs : List Byte} {d' : Nat}
    (h : s.readRun n a d = .bytes bs d') : bs.length = n := by
  induction n generalizing a d bs with
  | zero => simp only [State.readRun, ReadRun.bytes.injEq] at h; simp [← h.1]
  | succ n ih =>
    simp only [State.readRun] at h
    repeat' split at h
    all_goals first | cases h | skip
    all_goals first | (exfalso; solve_by_elim) | simp [ih (by assumption)]

/-! ### The padder's bytes. -/

theorem blockOf_get (bs : List Byte) (j : Fin 64) : (blockOf bs).get j = bs.getD j.val 0#8 := by
  simp [blockOf, Vector.get_eq_getElem]

@[simp] theorem trailerBytes_length (l : Addr) : (trailerBytes l).length = 8 := rfl

theorem withMarker_length (data : List Byte) (m : Bool) :
    (withMarker data m).length = data.length + if m then 0 else 1 := by
  cases m <;> simp [withMarker]

theorem tailBlock_length {body : List Byte} (h : body.length ≤ 64) (l : Addr) : (tailBlock body l).length = 64 := by
  unfold tailBlock trailerFits
  split
  · rename_i hf
    simp only [decide_eq_true_eq] at hf
    simp; omega
  · simp; omega

/-- What produce_next_block can give. -/
theorem produceNextBlock_cases (s : State) :
    (produceNextBlock s = .noMore ∧ s.cursor.trailer = true) ∨
    (∃ b d, s.cursor.trailer = false ∧ 64 ≤ s.cursor.rem.toNat ∧ produceNextBlock s =
      .block b { s.cursor with cur := addrAfter s.cursor.cur 64, rem := s.cursor.rem - 64#64 } d) ∨
    (∃ b tr d, s.cursor.trailer = false ∧ s.cursor.rem.toNat < 64 ∧ produceNextBlock s =
      .block b { s.cursor with cur := addrAfter s.cursor.cur s.cursor.rem.toNat, rem := 0#64, marker := true,
                               trailer := tr } d) ∨
    (∃ a d, produceNextBlock s = .busRead a d) ∨ produceNextBlock s = .effect := by
  unfold produceNextBlock
  simp only
  split
  · exact .inl ⟨rfl, ‹_›⟩
  · have ht : s.cursor.trailer = false := by simpa using ‹¬s.cursor.trailer = true›
    split
    · split
      · exact .inr (.inl ⟨_, _, ht, ‹_›, rfl⟩)
      · exact .inr (.inr (.inr (.inl ⟨_, _, rfl⟩)))
      · exact .inr (.inr (.inr (.inr rfl)))
    · split
      · exact .inr (.inr (.inl ⟨_, _, _, ht, by omega, rfl⟩))
      · exact .inr (.inr (.inr (.inl ⟨_, _, rfl⟩)))
      · exact .inr (.inr (.inr (.inr rfl)))

/-! ### The scheduler. -/

theorem deriveWords_length (n : Nat) (ws : List Word) : (deriveWords n ws).length = ws.length + n := by
  induction n generalizing ws with
  | zero => rfl
  | succ n ih => simp [deriveWords, ih]; omega

/-- Deriving words keeps the words so far. -/
theorem deriveWords_prefix (n : Nat) (ws : List Word) : ws <+: deriveWords n ws := by
  induction n generalizing ws with
  | zero => exact List.prefix_rfl
  | succ n ih => exact (List.prefix_append ws _).trans (ih _)

/-- The word at index i of the schedule. -/
theorem expand_get (blk : Vector Byte 64) (i : Fin 64) :
    (expand blk).get i = (deriveWords 48 (loadedWords blk)).getD i.val 0#32 := by
  simp [expand, Vector.get_eq_getElem]

/-! ### The compressor. -/

theorem foldWords_get (h wr : Vector Word 8) (i : Fin 8) : (foldWords h wr).get i = h.get i + wr.get i := by
  simp [foldWords, Vector.get_eq_getElem]

/-! ### The engine's store. -/

/-- Everything the engine's store can do. -/
theorem engineStore_cases (s : State) (a : Addr) (v : Byte) :
    ∃ m d, engineStore s a v =
        { s with
          mem := m, draws := d, overwritten := (a, s.mem.read? a.toNat) :: s.overwritten
          mdata := if s.waiting.contains a then [(a, ({ s with mem := m } : State).byteAt a)] else s.mdata
          waiting := s.waiting.filter (· != a) } ∧
      (m = s.mem.write a.toNat v ∨ (a ∈ s.racedOut ∧ m = s.mem)) := by
  unfold engineStore
  simp only
  split
  · rename_i h
    refine ⟨_, _, rfl, ?_⟩
    split
    · exact .inl rfl
    · exact .inr ⟨by simpa using h, rfl⟩
  · exact ⟨_, _, rfl, .inl rfl⟩

/-- Where no host agent wrote the byte, the digest byte is stored. -/
theorem engineStore_plain {s : State} {a : Addr} (v : Byte) (h : a ∉ s.racedOut) :
    engineStore s a v =
      ({ s with mem := s.mem.write a.toNat v, overwritten := (a, s.mem.read? a.toNat) :: s.overwritten } :
        State).answerWritten a := by
  simp [engineStore, h]

/-! ### The host's memory accesses. -/

/-- The engine has not written a byte that the record does not hold. -/
theorem oldOutput_none {s : State} {a : Addr} (h : ∀ old, (a, old) ∉ s.overwritten) : s.oldOutput a = none := by
  simp only [State.oldOutput, List.lookup_eq_none_iff]
  rintro ⟨x, y⟩ hx
  rw [bne_iff_ne]
  rintro rfl
  exact h _ hx

/-- A byte in the record has an old value of the record. -/
theorem oldOutput_some {s : State} {a : Addr} (h : ∃ old, (a, old) ∈ s.overwritten) :
    ∃ old, s.oldOutput a = some old ∧ (a, old) ∈ s.overwritten := by
  cases e : s.oldOutput a with
  | none =>
    obtain ⟨old, ho⟩ := h
    simp only [State.oldOutput, List.lookup_eq_none_iff] at e
    simpa using e _ ho
  | some old =>
    obtain ⟨l1, l2, q, _⟩ := List.lookup_eq_some_iff.1 e
    exact ⟨old, rfl, by rw [q]; simp⟩

/-- A byte of DST..DST+31 while BUSY. -/
theorem inOutput_of_range {s : State} {a : Addr} (h : s.phase ≠ .idle) (h1 : s.dstL.toNat ≤ a.toNat)
    (h2 : a.toNat < s.dstL.toNat + 32) : s.inOutput a = true := by
  simp [State.inOutput, within, State.busy, h, h1, h2]

/-- While IDLE, or outside DST..DST+31, a byte is no output byte. -/
theorem inOutput_eq_false {s : State} {a : Addr}
    (h : s.phase = .idle ∨ a.toNat < s.dstL.toNat ∨ s.dstL.toNat + 32 ≤ a.toNat) : s.inOutput a = false := by
  rw [← Bool.not_eq_true]
  simp only [State.inOutput, within, Bool.and_eq_true, decide_eq_true_eq, State.busy]
  rintro ⟨a, b, c⟩
  rcases h with h | h | h
  · simp [h] at a
  · omega
  · omega

/-- Everything a host store can do. -/
theorem hostStore_cases (s : State) (a : Addr) (v : Byte) :
    ∃ m d ri ro, hostStore s a v = { s with mem := m, draws := d, racedIn := ri, racedOut := ro } ∧
      (m = s.mem.write a.toNat v ∨ (s.inOutput a = true ∧ m = s.mem)) ∧
      ri = (if s.unreadInput a then a :: s.racedIn else s.racedIn) := by
  unfold hostStore State.raceInput
  by_cases hu : s.unreadInput a <;> simp only [hu, if_true, if_false, Bool.false_eq_true]
  all_goals
    split
    · split
      · split
        · exact ⟨_, _, _, _, rfl, .inl rfl, rfl⟩
        · exact ⟨_, _, _, _, rfl, .inr ⟨‹_›, rfl⟩, rfl⟩
      · exact ⟨_, _, _, _, rfl, .inl rfl, rfl⟩
    · exact ⟨_, _, _, _, rfl, .inl rfl, rfl⟩

/-- A host store to an output byte the engine has yet to write: the byte is stored, and recorded as raced. -/
theorem hostStore_unwritten {s : State} {a : Addr} (v : Byte) (ho : s.inOutput a = true) (hn : s.oldOutput a = none) :
    hostStore s a v = { s.raceInput a with mem := s.mem.write a.toNat v, racedOut := a :: s.racedOut } := by
  simp [hostStore, ho, hn]

/-- A host store outside the output of a running operation stores its byte. -/
theorem hostStore_outside {s : State} {a : Addr} (v : Byte) (ho : s.inOutput a = false) :
    hostStore s a v = { s.raceInput a with mem := s.mem.write a.toNat v } := by
  simp [hostStore, ho]

/-- Everything a host write's issue can do. -/
theorem hostPost_cases (s : State) (a : Addr) (v : Byte) :
    ∃ ri, hostPost s a v = { s with racedIn := ri, posted := s.posted ++ [(a, v)] } ∧
      ri = (if s.unreadInput a then a :: s.racedIn else s.racedIn) := by
  unfold hostPost State.raceInput
  split <;> exact ⟨_, rfl, rfl⟩

/-- No issued write to the byte is outstanding. -/
theorem posted_any_false {s : State} {a : Addr} (hp : ∀ v, (a, v) ∉ s.posted) : s.posted.any (·.1 == a) = false := by
  rw [List.any_eq_false]
  rintro ⟨x, y⟩ hx he
  simp only [beq_iff_eq] at he
  subst he
  exact hp _ hx

/-- Outside the output of a running operation, with no issued write to the byte, a host load answers what the memory holds. -/
theorem hostLoad_plain {s : State} {a : Addr} (hp : ∀ v, (a, v) ∉ s.posted) (ho : s.inOutput a = false) :
    hostLoad s a = s.answerByte a (s.byteAt a) := by
  simp [hostLoad, posted_any_false hp, ho]

/-- An output byte the engine has written: the byte there, or the one it overwrote. -/
theorem hostLoad_written {s : State} {a : Addr} {old : Option Byte} (ho : s.inOutput a = true)
    (h : s.oldOutput a = some old) :
    hostLoad s a =
      s.answerByteDraw a (if Config.freeBit s.draws then s.byteAt a else old.getD (Config.initialByte a)) := by
  simp [hostLoad, ho, h]

/-- An output byte the engine has yet to write, H being the digest: the byte there, or the digest byte if it comes to be
written. -/
theorem hostLoad_final {s : State} {a : Addr} {k : Fin 32} (ho : s.inOutput a = true)
    (h : s.oldOutput a = none) (hf : s.digestFinal = true) (hk : a.toNat = s.dstL.toNat + k.val) :
    hostLoad s a =
      if s.writesReach k then s.answerByteDraw a (if Config.freeBit s.draws then s.byteAt a else digestByte s.h k)
      else s.answerByte a (s.byteAt a) := by
  have : s.digestIndex a = k := Fin.ext (by simp [State.digestIndex]; omega)
  simp [hostLoad, ho, h, hf, this]

/-- An output byte the engine has yet to write, H not yet the digest: the byte there, or the read waits. -/
theorem hostLoad_early {s : State} {a : Addr} (ho : s.inOutput a = true) (h : s.oldOutput a = none) (hf : s.digestFinal = false) :
    hostLoad s a = if Config.freeBit s.draws then s.answerByteDraw a (s.byteAt a) else s.waitByte a := by
  simp [hostLoad, ho, h, hf]

/-- Everything a host load can do: it answers, or waits for an output byte of an operation before its WRITE phase. -/
theorem hostLoad_cases (s : State) (a : Addr) :
    (∃ b d, hostLoad s a = { s with mdata := [(a, b)], draws := d }) ∨
    (hostLoad s a = s.waitByte a ∧ s.inOutput a = true ∧ s.digestFinal = false) := by
  unfold hostLoad
  repeat' split
  all_goals first
    | exact .inl ⟨_, _, rfl⟩
    | exact .inr ⟨rfl, by assumption, by simp_all⟩

/-- The writes up to digest byte k are admitted, one by one. -/
theorem writesReach_eq_true (s : State) (k : Fin 32) :
    s.writesReach k = true ↔
      (if s.phase = .write then s.kw.val else 0) ≤ k.val ∧
        ∀ j, (if s.phase = .write then s.kw.val else 0) ≤ j → j ≤ k.val → s.admitW (addrAfter s.dstL j) = true := by
  simp only [State.writesReach, Bool.and_eq_true, decide_eq_true_eq, List.all_eq_true, List.mem_range]
  refine and_congr_right fun hn => ⟨fun h j h1 h2 => ?_, fun h j hj => h _ (by omega) (by omega)⟩
  have := h (j - if s.phase = .write then s.kw.val else 0) (by omega)
  rwa [Nat.add_sub_cancel' h1] at this

/-- Performing the oldest issued write. -/
theorem hostPerform_cases (s : State) :
    hostPerform s = s ∨ ∃ a v rest, s.posted = (a, v) :: rest ∧ hostPerform s = hostStore { s with posted := rest } a v := by
  unfold hostPerform
  split
  · exact .inl rfl
  · exact .inr ⟨_, _, _, ‹_›, rfl⟩

end Sys2Proof.Machine
end

