-- ==== Sys2Proof/Laws/PerInstr.lean ====
section
/-! SUPPORT. The family TableRow: the encoder gives every well-formed instruction words of its own row of
spec/opcode_table.json, whose mask and match are copied here from that file. -/

namespace Sys2Proof.Laws.TableRow

/-- The words lie in the row of this mask and match. -/
def inRow : Code → Code → Code → Bool
  | .bus w, .bus mask, .bus value => w &&& mask == value
  | .phase c, .phase mask, .phase value => c &&& mask == value
  | .bus _, _, _ => false
  | .phase _, _, _ => false

/-- The row's mask and match, as spec/opcode_table.json gives them. -/
def row : Instr → Code × Code
  | .rdId => (.bus 0x1FFFFFFFFFF#41, .bus 0x00000000000#41)
  | .wrId _ => (.bus 0x1FF00000000#41, .bus 0x10000000000#41)
  | .rdCtrl => (.bus 0x1FFFFFFFFFF#41, .bus 0x00400000000#41)
  | .wrCtrl _ => (.bus 0x1FF00000000#41, .bus 0x10400000000#41)
  | .rdCmd => (.bus 0x1FFFFFFFFFF#41, .bus 0x00800000000#41)
  | .cmdNop _ => (.bus 0x1FF000000FF#41, .bus 0x10800000000#41)
  | .cmdHash _ => (.bus 0x1FF000000FF#41, .bus 0x10800000001#41)
  | .cmdIllegal _ _ => (.bus 0x1FF00000000#41, .bus 0x10800000000#41)
  | .rdStatus => (.bus 0x1FFFFFFFFFF#41, .bus 0x00C00000000#41)
  | .wrStatus _ => (.bus 0x1FF00000000#41, .bus 0x10C00000000#41)
  | .rdSrcLo => (.bus 0x1FFFFFFFFFF#41, .bus 0x01000000000#41)
  | .wrSrcLo _ => (.bus 0x1FF00000000#41, .bus 0x11000000000#41)
  | .rdSrcHi => (.bus 0x1FFFFFFFFFF#41, .bus 0x01400000000#41)
  | .wrSrcHi _ => (.bus 0x1FF00000000#41, .bus 0x11400000000#41)
  | .rdLenLo => (.bus 0x1FFFFFFFFFF#41, .bus 0x01800000000#41)
  | .wrLenLo _ => (.bus 0x1FF00000000#41, .bus 0x11800000000#41)
  | .rdLenHi => (.bus 0x1FFFFFFFFFF#41, .bus 0x01C00000000#41)
  | .wrLenHi _ => (.bus 0x1FF00000000#41, .bus 0x11C00000000#41)
  | .rdDstLo => (.bus 0x1FFFFFFFFFF#41, .bus 0x02000000000#41)
  | .wrDstLo _ => (.bus 0x1FF00000000#41, .bus 0x12000000000#41)
  | .rdDstHi => (.bus 0x1FFFFFFFFFF#41, .bus 0x02400000000#41)
  | .wrDstHi _ => (.bus 0x1FF00000000#41, .bus 0x12400000000#41)
  | .rdErrAddrLo => (.bus 0x1FFFFFFFFFF#41, .bus 0x02800000000#41)
  | .wrErrAddrLo _ => (.bus 0x1FF00000000#41, .bus 0x12800000000#41)
  | .rdErrAddrHi => (.bus 0x1FFFFFFFFFF#41, .bus 0x02C00000000#41)
  | .wrErrAddrHi _ => (.bus 0x1FF00000000#41, .bus 0x12C00000000#41)
  | .rdHash _ => (.bus 0x1E3FFFFFFFF#41, .bus 0x04000000000#41)
  | .wrHash _ _ => (.bus 0x1E300000000#41, .bus 0x14000000000#41)
  | .rdRsvd30 _ => (.bus 0x1F3FFFFFFFF#41, .bus 0x03000000000#41)
  | .wrRsvd30 _ _ => (.bus 0x1F300000000#41, .bus 0x13000000000#41)
  | .rdRsvd60 _ => (.bus 0x1E3FFFFFFFF#41, .bus 0x06000000000#41)
  | .wrRsvd60 _ _ => (.bus 0x1E300000000#41, .bus 0x16000000000#41)
  | .rdRsvd80 _ => (.bus 0x183FFFFFFFF#41, .bus 0x08000000000#41)
  | .wrRsvd80 _ _ => (.bus 0x18300000000#41, .bus 0x18000000000#41)
  | .misaligned1 _ _ _ => (.bus 0x00300000000#41, .bus 0x00100000000#41)
  | .misaligned2 _ _ _ => (.bus 0x00300000000#41, .bus 0x00200000000#41)
  | .misaligned3 _ _ _ => (.bus 0x00300000000#41, .bus 0x00300000000#41)
  | .idle => (.phase 0x7#3, .phase 0x0#3)
  | .frame => (.phase 0x7#3, .phase 0x1#3)
  | .sched => (.phase 0x7#3, .phase 0x2#3)
  | .round => (.phase 0x7#3, .phase 0x3#3)
  | .fold => (.phase 0x7#3, .phase 0x4#3)
  | .write => (.phase 0x7#3, .phase 0x5#3)
  | .phaseRsvd6 => (.phase 0x7#3, .phase 0x6#3)
  | .phaseRsvd7 => (.phase 0x7#3, .phase 0x7#3)

/-- The statement of the family. -/
def Statement (i : Instr) : Prop := i.wf = true → inRow (encode i) (row i).1 (row i).2 = true

/-- The bits of a transaction word under a mask, field by field. -/
theorem busWord_and (wr : Bool) (r m1 : BitVec 6) (l m2 : BitVec 2) (d m3 : Word) (m0 : BitVec 1) :
    busWord wr r l d &&& (m0 ++ (m1 ++ (m2 ++ m3))) =
      (BitVec.ofBool wr &&& m0) ++ ((r &&& m1) ++ ((l &&& m2) ++ (d &&& m3))) := by
  change (BitVec.ofBool wr ++ (r ++ (l ++ d))) &&& (m0 ++ (m1 ++ (m2 ++ m3))) = _
  rw [BitVec.and_append, BitVec.and_append, BitVec.and_append]

/-- A mask of 41 bits, field by field. -/
theorem mask_fields (m0 : BitVec 1) (m1 : BitVec 6) (m2 : BitVec 2) (m3 : Word) (wr : Bool) (r : BitVec 6) (l : BitVec 2)
    (d : Word) {mask value : BitVec 41} (hm : mask = m0 ++ (m1 ++ (m2 ++ m3)))
    (hv : value = (BitVec.ofBool wr &&& m0) ++ ((r &&& m1) ++ ((l &&& m2) ++ (d &&& m3)))) :
    (busWord wr r l d &&& mask == value) = true := by
  rw [beq_iff_eq, hm, busWord_and, hv]

theorem rdId : Statement (.rdId) := fun _ => by decide
theorem wrId (v : Word) : Statement (.wrId v) := fun _ =>
  mask_fields 1#1 63#6 3#2 0#32 _ _ _ _ (by decide) (by simp only [BitVec.and_zero]; decide)
theorem rdCtrl : Statement (.rdCtrl) := fun _ => by decide
theorem wrCtrl (v : Word) : Statement (.wrCtrl v) := fun _ =>
  mask_fields 1#1 63#6 3#2 0#32 _ _ _ _ (by decide) (by simp only [BitVec.and_zero]; decide)
theorem rdCmd : Statement (.rdCmd) := fun _ => by decide
theorem cmdNop (v : BitVec 24) : Statement (.cmdNop v) := fun _ =>
  mask_fields 1#1 63#6 3#2 255#32 _ _ _ _ (by decide) (by
    rw [commandData, show (255#32 : Word) = 0#24 ++ 255#8 by decide, BitVec.and_append, BitVec.and_zero]; decide)
theorem cmdHash (v : BitVec 24) : Statement (.cmdHash v) := fun _ =>
  mask_fields 1#1 63#6 3#2 255#32 _ _ _ _ (by decide) (by
    rw [commandData, show (255#32 : Word) = 0#24 ++ 255#8 by decide, BitVec.and_append, BitVec.and_zero]; decide)
theorem cmdIllegal (code : Byte) (v : BitVec 24) : Statement (.cmdIllegal code v) := fun _ =>
  mask_fields 1#1 63#6 3#2 0#32 _ _ _ _ (by decide) (by simp only [BitVec.and_zero]; decide)
theorem rdStatus : Statement (.rdStatus) := fun _ => by decide
theorem wrStatus (v : Word) : Statement (.wrStatus v) := fun _ =>
  mask_fields 1#1 63#6 3#2 0#32 _ _ _ _ (by decide) (by simp only [BitVec.and_zero]; decide)
theorem rdSrcLo : Statement (.rdSrcLo) := fun _ => by decide
theorem wrSrcLo (v : Word) : Statement (.wrSrcLo v) := fun _ =>
  mask_fields 1#1 63#6 3#2 0#32 _ _ _ _ (by decide) (by simp only [BitVec.and_zero]; decide)
theorem rdSrcHi : Statement (.rdSrcHi) := fun _ => by decide
theorem wrSrcHi (v : Word) : Statement (.wrSrcHi v) := fun _ =>
  mask_fields 1#1 63#6 3#2 0#32 _ _ _ _ (by decide) (by simp only [BitVec.and_zero]; decide)
theorem rdLenLo : Statement (.rdLenLo) := fun _ => by decide
theorem wrLenLo (v : Word) : Statement (.wrLenLo v) := fun _ =>
  mask_fields 1#1 63#6 3#2 0#32 _ _ _ _ (by decide) (by simp only [BitVec.and_zero]; decide)
theorem rdLenHi : Statement (.rdLenHi) := fun _ => by decide
theorem wrLenHi (v : Word) : Statement (.wrLenHi v) := fun _ =>
  mask_fields 1#1 63#6 3#2 0#32 _ _ _ _ (by decide) (by simp only [BitVec.and_zero]; decide)
theorem rdDstLo : Statement (.rdDstLo) := fun _ => by decide
theorem wrDstLo (v : Word) : Statement (.wrDstLo v) := fun _ =>
  mask_fields 1#1 63#6 3#2 0#32 _ _ _ _ (by decide) (by simp only [BitVec.and_zero]; decide)
theorem rdDstHi : Statement (.rdDstHi) := fun _ => by decide
theorem wrDstHi (v : Word) : Statement (.wrDstHi v) := fun _ =>
  mask_fields 1#1 63#6 3#2 0#32 _ _ _ _ (by decide) (by simp only [BitVec.and_zero]; decide)
theorem rdErrAddrLo : Statement (.rdErrAddrLo) := fun _ => by decide
theorem wrErrAddrLo (v : Word) : Statement (.wrErrAddrLo v) := fun _ =>
  mask_fields 1#1 63#6 3#2 0#32 _ _ _ _ (by decide) (by simp only [BitVec.and_zero]; decide)
theorem rdErrAddrHi : Statement (.rdErrAddrHi) := fun _ => by decide
theorem wrErrAddrHi (v : Word) : Statement (.wrErrAddrHi v) := fun _ =>
  mask_fields 1#1 63#6 3#2 0#32 _ _ _ _ (by decide) (by simp only [BitVec.and_zero]; decide)
theorem rdHash (i : Fin 8) : Statement (.rdHash i) := fun _ => by
  revert i; decide
theorem wrHash (i : Fin 8) (v : Word) : Statement (.wrHash i v) := fun h => by
  clear h
  exact mask_fields 1#1 56#6 3#2 0#32 _ _ _ v (by decide) (by simp only [BitVec.and_zero]; revert i; decide)
theorem rdRsvd30 (i : Fin 4) : Statement (.rdRsvd30 i) := fun _ => by
  revert i; decide
theorem wrRsvd30 (i : Fin 4) (v : Word) : Statement (.wrRsvd30 i v) := fun h => by
  clear h
  exact mask_fields 1#1 60#6 3#2 0#32 _ _ _ v (by decide) (by simp only [BitVec.and_zero]; revert i; decide)
theorem rdRsvd60 (i : Fin 8) : Statement (.rdRsvd60 i) := fun _ => by
  revert i; decide
theorem wrRsvd60 (i : Fin 8) (v : Word) : Statement (.wrRsvd60 i v) := fun h => by
  clear h
  exact mask_fields 1#1 56#6 3#2 0#32 _ _ _ v (by decide) (by simp only [BitVec.and_zero]; revert i; decide)
theorem rdRsvd80 (i : Fin 32) : Statement (.rdRsvd80 i) := fun _ => by
  revert i; decide
theorem wrRsvd80 (i : Fin 32) (v : Word) : Statement (.wrRsvd80 i v) := fun h => by
  clear h
  exact mask_fields 1#1 32#6 3#2 0#32 _ _ _ v (by decide) (by simp only [BitVec.and_zero]; revert i; decide)
theorem misaligned1 (wr : Bool) (reg : BitVec 6) (v : Word) : Statement (.misaligned1 wr reg v) := fun _ =>
  mask_fields 0#1 0#6 3#2 0#32 wr reg _ v (by decide) (by simp only [BitVec.and_zero]; decide)
theorem misaligned2 (wr : Bool) (reg : BitVec 6) (v : Word) : Statement (.misaligned2 wr reg v) := fun _ =>
  mask_fields 0#1 0#6 3#2 0#32 wr reg _ v (by decide) (by simp only [BitVec.and_zero]; decide)
theorem misaligned3 (wr : Bool) (reg : BitVec 6) (v : Word) : Statement (.misaligned3 wr reg v) := fun _ =>
  mask_fields 0#1 0#6 3#2 0#32 wr reg _ v (by decide) (by simp only [BitVec.and_zero]; decide)
theorem idle : Statement (.idle) := fun _ => by decide
theorem frame : Statement (.frame) := fun _ => by decide
theorem sched : Statement (.sched) := fun _ => by decide
theorem round : Statement (.round) := fun _ => by decide
theorem fold : Statement (.fold) := fun _ => by decide
theorem write : Statement (.write) := fun _ => by decide
theorem phaseRsvd6 : Statement (.phaseRsvd6) := fun _ => by decide
theorem phaseRsvd7 : Statement (.phaseRsvd7) := fun _ => by decide

end Sys2Proof.Laws.TableRow
end

