-- ==== Sys2Proof/Laws/Run.lean ====
section
/-! SUPPORT. Runs of several steps. -/

namespace Sys2Proof.Safety

open Sys2Proof.Machine

theorem runFor_succ {s u} (h : step s = .next u) (k) : runFor (k+1) s = runFor k u := by
  have h' : Sys2Proof.core.step s = .next u := h
  simp only [runFor, Host.Core.run, h']; rfl

theorem runFor_fault {s r} (h : step s = .fault r) (k) : runFor (k+1) s = .fault r := by
  have h' : Sys2Proof.core.step s = .fault r := h
  simp only [runFor, Host.Core.run, h']; rfl

theorem runFor_refused {s r} (h : step s = .refused r) (k) : runFor (k+1) s = .refused r := by
  have h' : Sys2Proof.core.step s = .refused r := h
  simp only [runFor, Host.Core.run, h']; rfl

theorem runFor_add {s u} (k m : Nat) (h : runFor k s = .next u) : runFor (k+m) s = runFor m u := by
  induction k generalizing s with
  | zero => cases h; rw [Nat.zero_add]
  | succ k ih =>
    cases e : step s with
    | next v => rw [show k + 1 + m = (k + m) + 1 by omega, runFor_succ e, ih ((runFor_succ e k).symm.trans h)]
    | fault r => rw [runFor_fault e] at h; cases h
    | refused r => rw [runFor_refused e] at h; cases h

/-- With no input listed, a step is the micro-step PHASE names. -/
theorem step_no_input {s : State} (h : s.inputs = []) : step s = exec (decodePhase (phaseCode s.phase)) s := by
  rw [step, fetch_no_input h]

end Sys2Proof.Safety
end

