-- ==== Sys2Proof/Laws/Step.lean ====
section
/-! SUPPORT. What a step can do, said once: what the fetch gives, and what each shape of instruction answers. -/

namespace Sys2Proof.Machine

/-- Every row of the read table is an access. -/
theorem access_read (x : Slot) : (decodeRead x).isAccess = true := by cases x <;> rfl

/-- Every row of the write table is an access. -/
theorem access_write (x : Slot) (d) : (decodeWrite x d).isAccess = true := by
  cases x
  case cmd => simp only [decodeWrite, decodeCommand]; repeat' split
              all_goals rfl
  all_goals rfl

/-- A transaction word decodes to an access. -/
theorem access_word {w i} (h : decodeWord w = some i) : i.isAccess = true := by
  unfold decodeWord at h
  repeat' split at h
  all_goals first | (cases h; done) | (cases h; first | rfl | exact access_read _ | exact access_write _ _)

theorem fetchCode_bus {w s i u} (h : fetchCode (.bus w) s = .run i u) : i.isAccess = true ∧ u = s := by
  simp only [fetchCode, decode] at h
  cases e : decodeWord w with
  | none => simp [e] at h
  | some j => simp [e] at h; exact ⟨h.1 ▸ access_word e, h.2.symm⟩

theorem micro_run {s i u} (h : fetchMicroStep s = .run i u) : i = decodePhase (phaseCode s.phase) ∧ u = s := by
  simp [fetchMicroStep, fetchCode, decode] at h; exact ⟨h.1.symm, h.2.symm⟩

/-- The fetch gives a register access, or the micro-step PHASE names, in the state with its turn taken. -/
theorem fetch_run {s i u} (h : fetch s = .run i u) :
    ∃ r, u = { s with inputs := r } ∧ (i.isAccess = true ∨ i = decodePhase (phaseCode s.phase)) := by
  cases e : s.inputs with
  | nil =>
    rw [fetch, e] at h
    obtain ⟨a, b⟩ := micro_run h
    exact ⟨[], by rw [b, ← e], .inr a⟩
  | cons x rest =>
    cases hr : s.phaseReserved with
    | true =>
      simp only [fetch, e, hr, if_true] at h
      obtain ⟨a, b⟩ := micro_run h
      exact ⟨rest, b, .inr a⟩
    | false =>
    rw [fetch_input e hr] at h
    cases x with
    | access w => obtain ⟨a, b⟩ := fetchCode_bus h; exact ⟨rest, b, .inl a⟩
    | bus a b c d =>
      simp only [fetchInput, fetchBus] at h
      split at h
      · obtain ⟨a, b⟩ := fetchCode_bus h; exact ⟨rest, b, .inl a⟩
      · cases h
    | engine => obtain ⟨a, b⟩ := micro_run h; exact ⟨rest, b, .inr a⟩
    | reset => cases h
    | memStore => cases h
    | memPost => cases h
    | memPerform => cases h
    | memLoad => cases h

/-- A turn that is no instruction: a reset, or a memory access of a host agent. -/
theorem fetch_moved {s t} (h : fetch s = .moved t) :
    ∃ x rest, s.inputs = x :: rest ∧
      ((x = .reset ∧ t = resetEngine { s with inputs := rest }) ∨
        (∃ a v, x = .memStore a v ∧ t = hostStore { s with inputs := rest } a v) ∨
        (∃ a v, x = .memPost a v ∧ t = hostPost { s with inputs := rest } a v) ∨
        (x = .memPerform ∧ t = hostPerform { s with inputs := rest }) ∨
        (∃ a, x = .memLoad a ∧ t = hostLoad { s with inputs := rest } a)) := by
  have hc : ∀ c s, fetchCode c s ≠ .moved t := by
    intro c s h; unfold fetchCode at h; split at h <;> cases h
  cases e : s.inputs with
  | nil => rw [fetch, e] at h; exact absurd h (hc _ _)
  | cons x rest =>
    have hr : s.phaseReserved = false := by
      cases hr : s.phaseReserved with
      | false => rfl
      | true =>
        simp only [fetch, e, hr, if_true] at h
        exact absurd (show fetchCode (.phase (phaseCode s.phase)) { s with inputs := rest } = _ from h) (hc _ _)
    rw [fetch_input e hr] at h
    refine ⟨x, rest, rfl, ?_⟩
    cases x with
    | access w => exact absurd h (hc _ _)
    | bus a b c d =>
      simp only [fetchInput, fetchBus] at h
      split at h
      · exact absurd h (hc _ _)
      · cases h
    | engine => exact absurd (show fetchCode (.phase (phaseCode s.phase)) { s with inputs := rest } = _ from h) (hc _ _)
    | reset => cases h; simp
    | memStore => cases h; simp
    | memPost => cases h; simp
    | memPerform => cases h; simp
    | memLoad => cases h; simp

/-- The instruction of a step, with the phase that selects it. -/
theorem run_cases {s i u} (h : fetch s = .run i u) :
    ∃ r, u = { s with inputs := r } ∧ (i.isAccess = true ∨ (s.phase = .idle ∧ i = .idle) ∨ (s.phase = .frame ∧ i = .frame) ∨
      (s.phase = .sched ∧ i = .sched) ∨ (s.phase = .round ∧ i = .round) ∨ (s.phase = .fold ∧ i = .fold) ∨
      (s.phase = .write ∧ i = .write) ∨ i = .phaseRsvd6 ∨ i = .phaseRsvd7) := by
  obtain ⟨r, hu, hd⟩ := fetch_run h
  refine ⟨r, hu, ?_⟩
  rcases hd with hd | hd
  · exact .inl hd
  · cases e : s.phase <;> rw [e] at hd <;> simp [decodePhase, phaseOfCode, phaseCode] at hd <;> simp [hd]

/-- Everything a register access can do. -/
theorem access_next {i s t} (ha : i.isAccess = true) (h : exec i s = .next t) :
    t = s ∨ (∃ v, t = s.answer v) ∨ ((∃ j, i = .rdHash j) ∧ t = s.answerDraw) ∨
    (∃ v, i = .wrCtrl v ∧ t = { s with ie := v.getLsbD 0 }) ∨ (∃ v, i = .wrStatus v ∧ t = acknowledge s v) ∨
    (∃ o, t = { s with ops := o }) ∨
    (s.phase ≠ .idle ∧ t = overrun s ∧ ((∃ g, i = .cmdHash g) ∨ ∃ c g, i = .cmdIllegal c g)) ∨
    (s.phase = .idle ∧ (∃ g, i = .cmdHash g) ∧ t = acceptHash s) ∨
    (s.phase = .idle ∧ (∃ c g, i = .cmdIllegal c g) ∧ t = completeError s .illegalCmd 0#64) := by
  have hb : s.busy = false ↔ s.phase = .idle := by simp [State.busy]
  cases i <;> first | (cases ha; done) | skip
  case cmdHash g =>
    simp only [exec_cmdHash, execCmdHash] at h; split at h <;> cases h <;> simp_all [State.busy]
  case cmdIllegal g =>
    simp only [exec_cmdIllegal, execCmdIllegal] at h; split at h <;> cases h <;> simp_all [State.busy]
  case rdHash g =>
    simp only [exec_rdHash, execRdHash] at h; split at h <;> cases h
    · simp
    · exact .inr (.inl ⟨_, rfl⟩)
  case wrCtrl v => cases h; exact .inr (.inr (.inr (.inl ⟨_, rfl, rfl⟩)))
  case wrStatus v => cases h; exact .inr (.inr (.inr (.inr (.inl ⟨_, rfl, rfl⟩))))
  case misaligned1 => cases h
  case misaligned2 => cases h
  case misaligned3 => cases h
  all_goals first | (cases h; exact .inl rfl) | (cases h; exact .inr (.inl ⟨_, rfl⟩)) | (cases h; exact .inr (.inr (.inr (.inr (.inr (.inl ⟨_, rfl⟩))))))

/-- The two ends of accept_hash(). -/
theorem accept_cases (s : State) :
    (rangeOk s.src s.len s.dst = true ∧ acceptHash s = latchOperation (clearCompletion s)) ∨
    (rangeOk s.src s.len s.dst = false ∧ acceptHash s = completeError (clearCompletion s) .range 0#64) := by
  unfold acceptHash
  split
  · exact .inl ⟨‹_›, rfl⟩
  · exact .inr ⟨by rename_i h; simpa using h, rfl⟩

/-- Everything FRAME can do. -/
theorem frame_next {s t} (h : exec .frame s = .next t) :
    (t = { s with kw := 0, phase := .write } ∧ s.cursor.trailer = true) ∨
    (∃ b c d, t = { s with blk := b, cursor := c, draws := d, phase := .sched } ∧ c.lenL = s.cursor.lenL) ∨
    (∃ a d, t = completeError (afterRefusedRead s.answerWaiting d) .busRead a) := by
  change execFrame s = _ at h; unfold execFrame at h
  rcases produceNextBlock_cases s with ⟨q, q2⟩ | ⟨b, d, q1, q2, q⟩ | ⟨b, tr, d, q1, q2, q⟩ | ⟨a, d, q⟩ | q
  · rw [q] at h; cases h; exact .inl ⟨rfl, q2⟩
  · rw [q] at h; cases h; exact .inr (.inl ⟨_, _, _, rfl, rfl⟩)
  · rw [q] at h; cases h; exact .inr (.inl ⟨_, _, _, rfl, rfl⟩)
  · rw [q] at h; cases h; exact .inr (.inr ⟨_, _, rfl⟩)
  · rw [q] at h; cases h

/-- Everything WRITE can do. -/
theorem write_next {s t} (h : exec .write s = .next t) :
    (∃ m d o r w k, t = { s with mem := m, draws := d, overwritten := o, mdata := r, waiting := w, kw := k } ∧
      s.admitW s.digestAddr = true ∧ s.kw ≠ 31 ∧ k = s.kw + 1 ∧ w = s.waiting.filter (· != s.digestAddr) ∧
      (s.waiting = [] → r = s.mdata) ∧ ((∃ v, m = s.mem.write s.digestAddr.toNat v) ∨ m = s.mem)) ∨
    (∃ m d o r w, t = completeOk { s with mem := m, draws := d, overwritten := o, mdata := r, waiting := w, kw := 0 } ∧
      s.admitW s.digestAddr = true ∧ s.kw = 31 ∧ w = s.waiting.filter (· != s.digestAddr) ∧
      (s.waiting = [] → r = s.mdata) ∧ ((∃ v, m = s.mem.write s.digestAddr.toNat v) ∨ m = s.mem)) ∨
    t = completeError s.answerWaiting .busWrite s.digestAddr := by
  change execWrite s = _ at h; unfold execWrite at h; simp only at h
  split at h
  · obtain ⟨m, d, q, q'⟩ := engineStore_cases s s.digestAddr (digestByte s.h s.kw)
    have qq : ((∃ v, m = s.mem.write s.digestAddr.toNat v) ∨ m = s.mem) := by
      rcases q' with rfl | ⟨_, rfl⟩
      · exact .inl ⟨_, rfl⟩
      · exact .inr rfl
    rw [q] at h
    split at h
    · cases h; exact .inr (.inl ⟨_, _, _, _, _, rfl, ‹_›, ‹_›, rfl, fun e => by simp [e], qq⟩)
    · cases h; exact .inl ⟨_, _, _, _, _, _, rfl, ‹_›, ‹_›, rfl, rfl, fun e => by simp [e], qq⟩
  · cases h; exact .inr (.inr rfl)

end Sys2Proof.Machine
end

