-- ==== Sys2Proof/Laws/WordOps.lean ====
section
/-! SUPPORT. The word operations and the schedule, bit by bit and byte by byte (40_word_ops.md, 42_scheduler.md). -/

namespace Sys2Proof.Machine

/-- Bit i of a rotation is bit (i + n) mod 32 of the word (R102). -/
theorem getLsbD_rotr (x : Word) (n : Nat) (hn : 0 < n ∧ n < 32) (i : Nat) (hi : i < 32) :
    (rotr x n hn).getLsbD i = x.getLsbD ((i + n) % 32) := by
  simp only [rotr, BitVec.getLsbD_or, BitVec.getLsbD_ushiftRight, BitVec.getLsbD_shiftLeft, hi, decide_true, Bool.true_and]
  by_cases h : i + n < 32
  · rw [Nat.mod_eq_of_lt h]
    have : i < 32 - n := by omega
    simp [this, Nat.add_comm]
  · have h2 : (i + n) % 32 = i - (32 - n) := by omega
    have : ¬ i < 32 - n := by omega
    rw [h2, BitVec.getLsbD_of_ge x (n + i) (by omega)]
    simp [this]

/-- rotr is the bit vectors' rotation. -/
theorem rotr_eq_rotateRight (x : Word) (n : Nat) (h : 0 < n ∧ n < 32) : rotr x n h = x.rotateRight n := by
  simp [rotr, BitVec.rotateRight, BitVec.rotateRightAux, Nat.mod_eq_of_lt h.2]

/-- Byte j of be64_bytes as a number (R112). -/
theorem be64Byte_toNat (v : BitVec 64) (j : Fin 8) : (be64Byte v j).toNat = v.toNat / 2 ^ (56 - 8 * j.val) % 256 := by
  rw [be64Byte, BitVec.extractLsb'_toNat, Nat.shiftRight_eq_div_pow]

/-- Byte j of word_bytes as a number (R113). -/
theorem wordByte_toNat (x : Word) (j : Fin 4) : (wordByte x j).toNat = x.toNat / 2 ^ (24 - 8 * j.val) % 256 := by
  rw [wordByte, BitVec.extractLsb'_toNat, Nat.shiftRight_eq_div_pow]

/-- Digest byte k as a number (44_driver.md R179). -/
theorem digestByte_toNat (h : Vector Word 8) (k : Fin 32) :
    (digestByte h k).toNat = (h.get (Fin.ofNat 8 (k.val / 4))).toNat / 2 ^ (24 - 8 * (k.val % 4)) % 256 := by
  rw [digestByte, wordByte_toNat, show (digestLane k).val = k.val % 4 by simp [digestLane]]
  rfl

/-- The word derived at index ws.length + i is the recurrence over the words before it (42_scheduler.md R142, R143). -/
theorem deriveWords_at (n : Nat) (ws : List Word) (i : Nat) (h : i < n) :
    (deriveWords n ws)[ws.length + i]? = some (nextWord ((deriveWords n ws).take (ws.length + i))) := by
  induction n generalizing ws i with
  | zero => omega
  | succ n ih =>
    simp only [deriveWords]
    cases i with
    | zero =>
      obtain ⟨t, ht⟩ := deriveWords_prefix n (ws ++ [nextWord ws])
      rw [← ht]
      simp
    | succ i =>
      have := ih (ws ++ [nextWord ws]) i (by omega)
      rw [List.length_append, List.length_singleton] at this
      rw [show ws.length + (i + 1) = ws.length + 1 + i by omega]
      exact this

/-- The copied bytes, then the marker unless it was emitted (41_padder.md R124). -/
theorem withMarker_at (bs : List Byte) (m : Bool) (j : Nat) :
    (withMarker bs m)[j]? = if j < bs.length then bs[j]? else if m = false ∧ j = bs.length then some 0x80#8 else none := by
  cases m
  · simp only [withMarker, Bool.false_eq_true, if_false]
    rw [List.getElem?_append]
    split
    · rfl
    · by_cases h : j = bs.length
      · simp [h]
      · rw [if_neg (by simp [h])]
        simp; omega
  · simp only [withMarker, if_true]
    split
    · rfl
    · simp; omega

end Sys2Proof.Machine
end

