-- ==== Sys2Proof/Tests/Slice0.lean ====
section
/-! SUPPORT. The model's own tests: words written out from the tables of 30_encoding.md, values of 95_test_vectors.md, and
for each obligation with hypotheses a concrete state and operands that meet them. -/

namespace Sys2Proof.Tests

open Sys2Proof.Machine Sys2Proof.Safety

/-! ### Well-formedness. -/

theorem test_wf_refuses_illegal_command_with_code_nop : (Instr.cmdIllegal 0x00#8 0#24).wf = false := by decide
theorem test_wf_refuses_illegal_command_with_code_hash : (Instr.cmdIllegal 0x01#8 7#24).wf = false := by decide
theorem test_wf_admits_illegal_command : (Instr.cmdIllegal 0x02#8 0#24).wf = true ∧ (Instr.cmdHash 1#24).wf = true := by decide

/-! ### Decoding: each row's word, from 30_encoding.md R80 to R84 and R88 (`W:OFF:DATA`). -/

theorem test_decode_rd_id : decodeTableWord 48 0x00000000000 = some (.rdId) := by decide
theorem test_decode_wr_id : decodeTableWord 48 0x10089ABCDEF = some (.wrId 0x89ABCDEF#32) := by decide
theorem test_decode_rd_ctrl : decodeTableWord 48 0x00400000000 = some (.rdCtrl) := by decide
theorem test_decode_wr_ctrl : decodeTableWord 48 0x10400000001 = some (.wrCtrl 1#32) := by decide
theorem test_decode_rd_cmd : decodeTableWord 48 0x00800000000 = some (.rdCmd) := by decide
theorem test_decode_cmd_nop : decodeTableWord 48 0x10880000000 = some (.cmdNop 0x800000#24) := by decide
theorem test_decode_cmd_hash : decodeTableWord 48 0x10800000101 = some (.cmdHash 1#24) := by decide
theorem test_decode_cmd_illegal : decodeTableWord 48 0x108000001FF = some (.cmdIllegal 0xFF#8 1#24) := by decide
theorem test_decode_rd_status : decodeTableWord 48 0x00C00000000 = some (.rdStatus) := by decide
theorem test_decode_wr_status : decodeTableWord 48 0x10C0000000E = some (.wrStatus 0xE#32) := by decide
theorem test_decode_rd_src_lo : decodeTableWord 48 0x01000000000 = some (.rdSrcLo) := by decide
theorem test_decode_wr_src_lo : decodeTableWord 48 0x110FFFFFFF0 = some (.wrSrcLo 0xFFFFFFF0#32) := by decide
theorem test_decode_rd_src_hi : decodeTableWord 48 0x01400000000 = some (.rdSrcHi) := by decide
theorem test_decode_wr_src_hi : decodeTableWord 48 0x11480000001 = some (.wrSrcHi 0x80000001#32) := by decide
theorem test_decode_rd_len_lo : decodeTableWord 48 0x01800000000 = some (.rdLenLo) := by decide
theorem test_decode_wr_len_lo : decodeTableWord 48 0x11800000011 = some (.wrLenLo 0x11#32) := by decide
theorem test_decode_rd_len_hi : decodeTableWord 48 0x01C00000000 = some (.rdLenHi) := by decide
theorem test_decode_wr_len_hi : decodeTableWord 48 0x11C00000002 = some (.wrLenHi 2#32) := by decide
theorem test_decode_rd_dst_lo : decodeTableWord 48 0x02000000000 = some (.rdDstLo) := by decide
theorem test_decode_wr_dst_lo : decodeTableWord 48 0x12000002000 = some (.wrDstLo 0x2000#32) := by decide
theorem test_decode_rd_dst_hi : decodeTableWord 48 0x02400000000 = some (.rdDstHi) := by decide
theorem test_decode_wr_dst_hi : decodeTableWord 48 0x12480000000 = some (.wrDstHi 0x80000000#32) := by decide
theorem test_decode_rd_erraddr_lo : decodeTableWord 48 0x02800000000 = some (.rdErrAddrLo) := by decide
theorem test_decode_wr_erraddr_lo : decodeTableWord 48 0x12800000005 = some (.wrErrAddrLo 5#32) := by decide
theorem test_decode_rd_erraddr_hi : decodeTableWord 48 0x02C00000000 = some (.rdErrAddrHi) := by decide
theorem test_decode_wr_erraddr_hi : decodeTableWord 48 0x12C00000006 = some (.wrErrAddrHi 6#32) := by decide
theorem test_decode_rd_hash : decodeTableWord 48 0x05C00000000 = some (.rdHash 7) := by decide
theorem test_decode_wr_hash : decodeTableWord 48 0x1440000000A = some (.wrHash 1 0xA#32) := by decide
theorem test_decode_rd_rsvd30 : decodeTableWord 48 0x03400000000 = some (.rdRsvd30 1) := by decide
theorem test_decode_wr_rsvd30 : decodeTableWord 48 0x13C00000007 = some (.wrRsvd30 3 7#32) := by decide
theorem test_decode_rd_rsvd60 : decodeTableWord 48 0x07C00000000 = some (.rdRsvd60 7) := by decide
theorem test_decode_wr_rsvd60 : decodeTableWord 48 0x16000000008 = some (.wrRsvd60 0 8#32) := by decide
theorem test_decode_rd_rsvd80 : decodeTableWord 48 0x0FC00000000 = some (.rdRsvd80 31) := by decide
theorem test_decode_wr_rsvd80 : decodeTableWord 48 0x18400000009 = some (.wrRsvd80 1 9#32) := by decide
theorem test_decode_misaligned1 : decodeTableWord 48 0x00D00000000 = some (.misaligned1 false 3#6 0#32) := by decide
theorem test_decode_misaligned2 : decodeTableWord 48 0x10E00000004 = some (.misaligned2 true 3#6 4#32) := by decide
theorem test_decode_misaligned3 : decodeTableWord 48 0x0FF00000001 = some (.misaligned3 false 63#6 1#32) := by decide
theorem test_decode_phase0 : decodeTableWord 8 0 = some .idle := by decide
theorem test_decode_phase1 : decodeTableWord 8 1 = some .frame := by decide
theorem test_decode_phase2 : decodeTableWord 8 2 = some .sched := by decide
theorem test_decode_phase3 : decodeTableWord 8 3 = some .round := by decide
theorem test_decode_phase4 : decodeTableWord 8 4 = some .fold := by decide
theorem test_decode_phase5 : decodeTableWord 8 5 = some .write := by decide
theorem test_decode_phase6 : decodeTableWord 8 6 = some .phaseRsvd6 := by decide
theorem test_decode_phase7 : decodeTableWord 8 7 = some .phaseRsvd7 := by decide
theorem test_decode_refuses_read_with_data : decodeTableWord 48 0x00C00000001 = none := by decide
theorem test_decode_refuses_phase_code_above_7 : decodeTableWord 8 8 = none := by decide
theorem test_decode_refuses_bits_above_the_word : decodeTableWord 48 0x20000000000 = none := by decide
/-- 30_encoding.md R80 (the HASH command) and 95_test_vectors.md P1 (`rd STATUS`). -/
theorem test_encode_words : encode .rdStatus = .bus 0x00C00000000#41 ∧ encode (.cmdHash 0#24) = .bus 0x10800000001#41 := by
  decide

/-! ### States. -/

/-- What the next step leaves, where it answers a next state. -/
def after (s : State) : Option State :=
  match step s with
  | .next t => some t
  | .fault _ => none
  | .refused _ => none

/-- What the host's access by this transaction word leaves. -/
def hostAccess (s : State) (w : Nat) : Option State := after (s.withFetchWord 48 w)

/-- The operand registers for an input of `len` bytes at `src` and a digest at `dst`. -/
def operands (src len dst : Word) : OperandRegs :=
  { srcLo := src, srcHi := 0#32, lenLo := len, lenHi := 0#32, dstLo := dst, dstHi := 0#32 }

/-- P1 of 95_test_vectors.md: "abc" at 0x1000, the digest to 0x2000. -/
def abc : State :=
  { State.reset with
    mem := [(0x1000, 0x61#8), (0x1001, 0x62#8), (0x1002, 0x63#8)]
    ops := operands 0x1000#32 3#32 0x2000#32 }

/-- P1 after the acceptance. -/
def abcFrame : State :=
  { abc with
    phase := .frame, h := ivTable, dstL := 0x2000#64
    cursor := { cur := 0x1000#64, rem := 3#64, lenL := 3#64, marker := false, trailer := false } }

/-- The block of "abc" (95_test_vectors.md section 3). -/
def abcBlock : List Byte :=
  [0x61#8, 0x62#8, 0x63#8, 0x80#8] ++ List.replicate 52 0#8 ++ [0#8, 0#8, 0#8, 0#8, 0#8, 0#8, 0#8, 0x18#8]

/-- P1 with its block in BLK. -/
def abcSched : State :=
  { abcFrame with
    phase := .sched, blk := blockOf abcBlock
    cursor := { cur := 0x1003#64, rem := 0#64, lenL := 3#64, marker := true, trailer := true } }

/-- P1 before round 0: W[0] = 61626380. -/
def abcRound : State := { abcSched with phase := .round, wr := ivTable, w := Vector.replicate 64 0x61626380#32 }

/-- P1 before round 63, from the row t = 62 of section 5 and W[63] of section 4. -/
def abcLastRound : State :=
  { abcRound with
    t := 63, w := Vector.replicate 64 0x12b1edeb#32
    wr := #v[0xd39a2165#32, 0x04d24d6c#32, 0xb85e2ce9#32, 0xb6ae8fff#32, 0xfb121210#32, 0x948d25b6#32, 0x961f4894#32,
             0xb21bad3d#32] }

/-- P1 before FOLD, from the row t = 63 of section 5. -/
def abcFold : State :=
  { abcRound with
    phase := .fold
    wr := #v[0x506e3058#32, 0xd39a2165#32, 0x04d24d6c#32, 0xb85e2ce9#32, 0x5ef50f24#32, 0xfb121210#32, 0x948d25b6#32,
             0x961f4894#32] }

/-- The digest of "abc" (S2). -/
def abcDigest : Vector Word 8 :=
  #v[0xba7816bf#32, 0x8f01cfea#32, 0x414140de#32, 0x5dae2223#32, 0xb00361a3#32, 0x96177a9c#32, 0xb410ff61#32,
     0xf20015ad#32]

/-- P1 before the WRITE of digest byte k. -/
def abcWrite (k : Fin 32) : State := { abcSched with phase := .write, h := abcDigest, kw := k }

/-- A completion with ILLEGAL_CMD, both CTRL.IE and OVR set (section 7). -/
def failed : State :=
  { State.reset with ie := true, status := { done := true, err := true, ovr := true, errcode := .illegalCmd } }

/-- P3 of 95_test_vectors.md: `admitR(a) = (a < 0x3000)`, 32 bytes at 0x2FF0, and a write port that refuses 0x4010 on. -/
def refusing : State :=
  { abcFrame with
    platform := { Platform.reset with
      refusesR := [{ lo := 0x3000#64, hi := 0xFFFFFFFFFFFFFFFF#64 }]
      refusesW := [{ lo := 0x4010#64, hi := 0xFFFFFFFFFFFFFFFF#64 }] }
    cursor := { cur := 0x2FF0#64, rem := 0x20#64, lenL := 0x20#64, marker := false, trailer := false }
    dstL := 0x4000#64 }

/-- `len` bytes of 0x61 at 0x1000 (section 3), `rem` of them unread. -/
def reading (rem len : Nat) (marker trailer : Bool) : State :=
  { abcFrame with
    mem := (List.range 128).map fun i => (0x1000 + i, 0x61#8)
    cursor := { cur := BitVec.ofNat 64 (0x1000 + (len - rem)), rem := BitVec.ofNat 64 rem, lenL := BitVec.ofNat 64 len
                marker := marker, trailer := trailer } }

/-! ### One step of each instruction. Values: 95_test_vectors.md sections 2 to 8. -/

theorem test_rd_id : (hostAccess .reset 0x00000000000).map (·.rdata) = some (some 0x53323536#32) := by decide
theorem test_wr_id : (hostAccess failed 0x100FFFFFFFF).map (·.statusWord) = some 0x0000010E#32 := by decide
theorem test_rd_ctrl : (hostAccess failed 0x00400000000).map (·.rdata) = some (some 1#32) := by decide
theorem test_wr_ctrl : (hostAccess failed 0x104FFFFFFFE).map (fun t => (t.irq, t.status.done)) = some (false, true) := by decide
theorem test_wr_ctrl_keeps_bit_0 : (hostAccess .reset 0x104FFFFFFFF).map (·.ie) = some true := by decide
theorem test_rd_cmd : (hostAccess failed 0x00800000000).map (·.rdata) = some (some 0#32) := by decide
theorem test_cmd_nop_busy : (hostAccess abcFrame 0x10800000000).map (·.statusWord) = some 1#32 := by decide
theorem test_cmd_hash : (hostAccess abc 0x10800000101).map (fun t => (t.statusWord, t.cursor.cur, t.cursor.rem, t.dstL)) =
    some (1#32, 0x1000#64, 3#64, 0x2000#64) := by decide
theorem test_cmd_hash_busy : (hostAccess abcFrame 0x10800000001).map (·.statusWord) = some 9#32 := by decide
theorem test_cmd_illegal : (hostAccess .reset 0x10800000107).map (fun t => (t.statusWord, t.errAddr)) =
    some (0x00000106#32, 0#64) := by decide
theorem test_cmd_illegal_busy : (hostAccess abcFrame 0x10800000007).map (·.statusWord) = some 9#32 := by decide
theorem test_rd_status : (hostAccess failed 0x00C00000000).map (·.rdata) = some (some 0x0000010E#32) := by decide
theorem test_wr_status_clears_done : (hostAccess failed 0x10C00000002).map (·.statusWord) = some 0x0000010C#32 := by decide
theorem test_wr_status_clears_err : (hostAccess failed 0x10C00000004).map (·.statusWord) = some 0x0000000A#32 := by decide
theorem test_rd_src_lo : (hostAccess abc 0x01000000000).map (·.rdata) = some (some 0x1000#32) := by decide
theorem test_wr_src_lo : (hostAccess abc 0x110FFFFFFF0).map (·.src) = some 0xFFFFFFF0#64 := by decide
theorem test_rd_src_hi : (hostAccess abc 0x01400000000).map (·.rdata) = some (some 0#32) := by decide
theorem test_wr_src_hi : (hostAccess abc 0x11480000001).map (·.src) = some 0x8000000100001000#64 := by decide
theorem test_rd_len_lo : (hostAccess abc 0x01800000000).map (·.rdata) = some (some 3#32) := by decide
theorem test_wr_len_lo : (hostAccess abc 0x11800000011).map (·.len) = some 0x11#64 := by decide
theorem test_rd_len_hi : (hostAccess abc 0x01C00000000).map (·.rdata) = some (some 0#32) := by decide
theorem test_wr_len_hi : (hostAccess abc 0x11C00000002).map (·.len) = some 0x0000000200000003#64 := by decide
theorem test_rd_dst_lo : (hostAccess abc 0x02000000000).map (·.rdata) = some (some 0x2000#32) := by decide
/-- An operand write while BUSY does not reach the running operation (10_state.md R41). -/
theorem test_wr_dst_lo_busy : (hostAccess abcFrame 0x12000003000).map (fun t => (t.dst, t.dstL)) =
    some (0x3000#64, 0x2000#64) := by decide
theorem test_rd_dst_hi : (hostAccess abc 0x02400000000).map (·.rdata) = some (some 0#32) := by decide
theorem test_wr_dst_hi : (hostAccess abc 0x12480000000).map (·.dst) = some 0x8000000000002000#64 := by decide
theorem test_rd_erraddr_lo : (hostAccess { failed with errAddr := 0x123456789ABCDEF0#64 } 0x02800000000).map (·.rdata) =
    some (some 0x9ABCDEF0#32) := by decide
theorem test_wr_erraddr_lo : (hostAccess { failed with errAddr := 0x3000#64 } 0x12800000005).map (·.errAddr) =
    some 0x3000#64 := by decide
theorem test_rd_erraddr_hi : (hostAccess { failed with errAddr := 0x123456789ABCDEF0#64 } 0x02C00000000).map (·.rdata) =
    some (some 0x12345678#32) := by decide
theorem test_wr_erraddr_hi : (hostAccess { failed with errAddr := 0x3000#64 } 0x12C00000005).map (·.errAddr) =
    some 0x3000#64 := by decide
theorem test_rd_hash : (hostAccess { abc with h := abcDigest } 0x05C00000000).map (·.rdata) =
    some (some 0xF20015AD#32) := by decide
theorem test_rd_hash_reset : (hostAccess .reset 0x04C00000000).map (·.rdata) = some (some 0#32) := by decide
theorem test_wr_hash : (hostAccess { abc with h := abcDigest } 0x14000000005).map (·.h.get 0) = some 0xBA7816BF#32 := by
  decide
theorem test_rd_rsvd30 : (hostAccess failed 0x03C00000000).map (·.rdata) = some (some 0#32) := by decide
theorem test_wr_rsvd30 : (hostAccess failed 0x130FFFFFFFF).map (·.statusWord) = some 0x0000010E#32 := by decide
theorem test_rd_rsvd60 : (hostAccess failed 0x06000000000).map (·.rdata) = some (some 0#32) := by decide
theorem test_wr_rsvd60 : (hostAccess failed 0x17CFFFFFFFF).map (·.statusWord) = some 0x0000010E#32 := by decide
theorem test_rd_rsvd80 : (hostAccess failed 0x0FC00000000).map (·.rdata) = some (some 0#32) := by decide
theorem test_wr_rsvd80 : (hostAccess failed 0x180FFFFFFFF).map (·.statusWord) = some 0x0000010E#32 := by decide
theorem test_misaligned : hostAccess .reset 0x00D00000000 = none ∧ hostAccess .reset 0x00E00000000 = none ∧
    hostAccess .reset 0x10F00000000 = none := by decide
theorem test_idle : (after (State.reset.withFetchWord 8 0)).map (·.phase) = some .idle := by decide
/-- A FRAME with nothing to read and no length: the marker, zeros and a zero trailer (L = 0, block 0). -/
theorem test_frame_first : (after (State.reset.withFetchWord 8 1)).map (·.blk.toList) =
    some ([0x80#8] ++ List.replicate 63 0#8) := by decide
theorem test_frame_abc : (after abcFrame).map (fun t => (t.blk.toList, t.cursor.cur, t.cursor.trailer)) =
    some (abcBlock, 0x1003#64, true) := by decide
theorem test_sched : (after abcSched).map (fun t => (t.w.get 0, t.w.get 15, t.w.get 18, t.w.get 63)) =
    some (0x61626380#32, 0x18#32, 0x7da86405#32, 0x12b1edeb#32) := by decide +kernel
theorem test_round : (after abcRound).map (fun t => (t.wr.toList, t.t)) =
    some ([0x5d6aebcd#32, 0x6a09e667#32, 0xbb67ae85#32, 0x3c6ef372#32, 0xfa2a4622#32, 0x510e527f#32, 0x9b05688c#32,
           0x1f83d9ab#32], 1) := by decide
theorem test_round_last : (after abcLastRound).map (fun t => (t.wr.get 0, t.wr.get 4, t.t, t.phase)) =
    some (0x506e3058#32, 0x5ef50f24#32, 0, .fold) := by decide
theorem test_fold : (after abcFold).map (fun t => (t.h, t.phase)) = some (abcDigest, .frame) := by decide
theorem test_write : (after (abcWrite 5)).map (fun t => (t.mem.read? 0x2005, t.kw, t.phase)) =
    some (some 0x01#8, 6, .write) := by decide
theorem test_write_last : (after (abcWrite 31)).map (fun t => (t.mem.read? 0x201F, t.statusWord, t.kw)) =
    some (some 0xAD#8, 2#32, 0) := by decide
theorem test_phase_rsvd : after (State.reset.withFetchWord 8 6) = none ∧ after (State.reset.withFetchWord 8 7) = none := by
  decide
theorem test_frame_refused_read : (after refusing).map (fun t => (t.statusWord, t.errAddr)) =
    some (0x00000306#32, 0x3000#64) := by decide
theorem test_write_refused : (after { refusing with phase := .write, kw := 16 }).map (fun t => (t.statusWord, t.errAddr)) =
    some (0x00000406#32, 0x4010#64) := by decide

/-! ### Word operations (95_test_vectors.md section 2). -/

theorem test_mixing_functions : (s0 0x12345678#32, s1 0x12345678#32, bigS0 0x12345678#32, bigS1 0x12345678#32) =
    (0xe7fce6ee#32, 0xa1f78649#32, 0x66146474#32, 0x3561abda#32) := by decide
theorem test_choose_and_majority : (ch 0xff00ff00#32 0x12345678#32 0x9abcdef0#32, maj 0xff00ff00#32 0x0ff00ff0#32 0x00ffff00#32) =
    (0x12bc56f0#32, 0x0ff0ff00#32) := by decide
theorem test_trailer : trailerBytes 0x1FFFFFFFFFFFFFFF#64 = [0xff#8, 0xff#8, 0xff#8, 0xff#8, 0xff#8, 0xff#8, 0xff#8, 0xf8#8] ∧
    trailerBytes 0x2000000000000000#64 = List.replicate 8 0#8 := by decide

/-! ### The hypotheses of the obligations are met: for each, a state and operands, at the ends of the ranges. -/

theorem witness_DecodeOfEncode : (Instr.cmdIllegal 0xFF#8 0xFFFFFF#24).wf = true ∧ (Instr.rdRsvd80 31).wf = true := by decide
theorem witness_EncodeOfDecode : decode (.bus 0x1FFFFFFFFFF#41) = .ok (.misaligned3 true 63#6 0xFFFFFFFF#32) ∧
    decode (.phase 7#3) = .ok .phaseRsvd7 := by decide
/-- A state that no run reaches, with one turn to come. -/
def unusedPhase (p : Phase) (x : Input) : State := { State.reset with phase := p, inputs := [x] }

theorem witness_StepRunsDecodedInstruction :
    ({ abc with inputs := [.access 0x10800000001#41] } : State).inputs = [.access 0x10800000001#41] ∧
    abc.phase ≠ .unused6 ∧ abc.phase ≠ .unused7 ∧
    decode (.bus 0x10800000001#41) = .ok (.cmdHash 0#24) ∧
    ({ abcFrame with inputs := [.engine] } : State).inputs = [.engine] ∧
    decode (.phase (phaseCode abcFrame.phase)) = .ok .frame ∧ abcFrame.inputs = [] ∧
    (unusedPhase .unused6 .reset).inputs = [.reset] ∧ (unusedPhase .unused6 .reset).phase = .unused6 ∧
    decode (.phase (phaseCode .unused6)) = .ok .phaseRsvd6 ∧ decode (.phase (phaseCode .unused7)) = .ok .phaseRsvd7 := by decide
/-- 30_encoding.md R88: the state is refused, whatever the turn. -/
theorem test_reserved_phase_refuses_every_turn : [Phase.unused6, Phase.unused7].all (fun p =>
    [Input.access 0x00C00000000#41, Input.access 0x10800000001#41, Input.engine, Input.reset, Input.memStore 0#64 0#8,
     Input.memPerform, Input.memLoad 0#64].all fun x => (after (unusedPhase p x)).isNone) = true := by decide
theorem witness_ReservedPhaseIsRefused : (unusedPhase .unused6 .engine).phase = .unused6 ∧
    (unusedPhase .unused7 (.memLoad 0#64)).phase = .unused7 := by decide
theorem witness_EngineTurnRunsThePhase : ∀ p : Fin 8,
    ({ abcFrame with phase := phaseOfCode (BitVec.ofNat 3 p.val) } : State).inputs = [] ∧
    phaseCode (phaseOfCode (BitVec.ofNat 3 p.val)) = BitVec.ofNat 3 p.val := by decide

/-- The engine with its window at BASE and one host bus access to come. -/
def onBus (base addr : Addr) (bits : Nat) (write : Bool) : State :=
  { State.reset with platform := { Platform.reset with base := base }, inputs := [.bus addr bits write 0#32] }

theorem witness_MisalignedNarrowOrOutsideAccessIsRefused :
    ({ abc with inputs := [.access 0x00D00000000#41] } : State).inputs = [.access 0x00D00000000#41] ∧
    (0x00D00000000#41 : BitVec 41).getLsbD 32 = true ∧ (0x00E00000000#41 : BitVec 41).getLsbD 33 = true ∧
    (onBus 0x8000#64 0x8008#64 16 false).inputs = [.bus 0x8008#64 16 false 0#32] ∧
    (0x7FFF#64 : Addr).toNat < (onBus 0x8000#64 0x7FFF#64 32 false).platform.base.toNat ∧
    (onBus 0x8000#64 0x8100#64 32 true).platform.base.toNat + 256 ≤ (0x8100#64 : Addr).toNat ∧
    ((0x80FF#64 : Addr).toNat - (onBus 0x8000#64 0x80FF#64 32 true).platform.base.toNat) % 4 ≠ 0 := by decide
theorem witness_WindowAccessIsItsTransactionWord :
    (onBus 0xFFFFFFFFFFFFFF00#64 0xFFFFFFFFFFFFFFFF#64 32 true).inputs = [.bus 0xFFFFFFFFFFFFFFFF#64 32 true 0#32] ∧
    (0xFFFFFFFFFFFFFFFF#64 : Addr).toNat = (0xFFFFFFFFFFFFFF00#64 : Addr).toNat + (0xFF#8 : BitVec 8).toNat ∧
    (0x8000#64 : Addr).toNat = (0x8000#64 : Addr).toNat + (0#8 : BitVec 8).toNat := by decide
theorem witness_ProperTurnAnswersNext : ProperTurn State.reset ∧ ProperTurn abcFrame ∧
    ProperTurn { abc with inputs := [.access 0x10800000001#41] } ∧ ProperTurn (onBus 0x8000#64 0x80FC#64 32 false) := by
  refine ⟨⟨rfl, by decide, by decide, trivial⟩, ⟨rfl, by decide, by decide, trivial⟩, ⟨rfl, by decide, by decide, rfl⟩,
    rfl, by decide, by decide, 0x0FC00000000#41, by decide, by decide⟩
theorem witness_OperandRegisterWrites : abc.phase = .idle ∧
    2 ^ 64 < ((0xFFFFFFFF#32 : Word) ++ ({ abc with ops := { abc.ops with dstLo := 0xFFFFFFE1#32 } } : State).ops.dstLo).toNat + 32 := by
  decide
theorem witness_HashRead : abc.phase = .idle ∧ abcFrame.phase ≠ .idle := by decide

/-- Operands at the top of memory (section 7): SRC + LEN = 2^64 and DST + 32 = 2^64. -/
def atTop : State :=
  { State.reset with
    ops := { srcLo := 0xFFFFFFF0#32, srcHi := 0xFFFFFFFF#32, lenLo := 0x10#32, lenHi := 0#32, dstLo := 0xFFFFFFE0#32
             dstHi := 0xFFFFFFFF#32 } }

theorem witness_HashAcceptance : atTop.phase = .idle ∧
    (atTop.ops.srcHi ++ atTop.ops.srcLo).toNat + (atTop.ops.lenHi ++ atTop.ops.lenLo).toNat = 2 ^ 64 ∧
    (atTop.ops.dstHi ++ atTop.ops.dstLo).toNat + 32 = 2 ^ 64 := by decide
theorem witness_HashAcceptance_range :
    2 ^ 64 < (atTop.ops.srcHi ++ atTop.ops.srcLo).toNat + (atTop.ops.lenHi ++ (0x11#32 : Word)).toNat ∧
    2 ^ 64 < (atTop.ops.dstHi ++ (0xFFFFFFE1#32 : Word)).toNat + 32 := by decide
theorem test_cmd_hash_range : (hostAccess { atTop with ops := { atTop.ops with dstLo := 0xFFFFFFE1#32 } } 0x10800000001).map
    (fun t => (t.statusWord, t.errAddr)) = some (0x00000206#32, 0#64) := by decide
theorem witness_IllegalCommandError : abcFrame.phase ≠ .idle ∧ (0x02#8 : Byte) ≠ 0x00#8 ∧ (0x02#8 : Byte) ≠ 0x01#8 ∧ (0xFF#8 : Byte) ≠ 0x00#8 ∧
    (0xFF#8 : Byte) ≠ 0x01#8 ∧ abc.phase = .idle := by decide
/-- Its last clause: OVR set, and cleared by a W1C write and by a reset, is among witness_StatusBitWriters. -/
theorem witness_CommandWhileBusyIsDropped : abcFrame.phase ≠ .idle ∧ (0x02#8 : Byte) ≠ 0x00#8 ∧ (0x02#8 : Byte) ≠ 0x01#8 := by
  decide
theorem witness_FrameAfterTrailer : (reading 0 0 true true).cursor.trailer = true := by decide
theorem witness_FrameFullBlock : (reading 64 120 false false).cursor.trailer = false ∧
    64 ≤ (reading 64 120 false false).cursor.rem.toNat ∧
    AdmittedRun (reading 64 120 false false) (reading 64 120 false false).cursor.cur 64 ∧
    (reading 64 120 false false).racedIn = [] := ⟨rfl, by decide, fun _ _ => ⟨rfl, rfl⟩, rfl⟩
theorem witness_FrameTail_with_trailer :
    (reading 55 55 false false).cursor.rem.toNat < 64 ∧ tailLength (reading 55 55 false false) = 56 ∧
    AdmittedRun (reading 55 55 false false) (reading 55 55 false false).cursor.cur 55 ∧
    (reading 55 55 false false).cursor.trailer = false ∧ (reading 55 55 false false).cursor.marker = false ∧
    tailLength (reading 0 56 true false) = 0 ∧ (reading 0 56 true false).cursor.trailer = false ∧
    (reading 55 55 false false).racedIn = [] :=
  ⟨by decide, by decide, fun _ _ => ⟨rfl, rfl⟩, rfl, rfl, by decide, rfl, rfl⟩
theorem witness_FrameTail_deferring :
    (reading 56 56 false false).cursor.rem.toNat < 64 ∧ tailLength (reading 56 56 false false) = 57 ∧
    AdmittedRun (reading 56 56 false false) (reading 56 56 false false).cursor.cur 56 ∧
    (reading 63 63 false false).cursor.rem.toNat < 64 ∧ tailLength (reading 63 63 false false) = 64 ∧
    AdmittedRun (reading 63 63 false false) (reading 63 63 false false).cursor.cur 63 ∧
    (reading 63 63 false false).cursor.trailer = false ∧ (reading 56 56 false false).racedIn = [] :=
  ⟨by decide, by decide, fun _ _ => ⟨rfl, rfl⟩, by decide, by decide, fun _ _ => ⟨rfl, rfl⟩, rfl, rfl⟩
theorem witness_FrameRefusedRead : refusing.cursor.trailer = false ∧ 16 < refusing.cursor.rem.toNat ∧
    AdmittedRun refusing refusing.cursor.cur 16 ∧ refusing.admitR (refusing.cursor.cur + BitVec.ofNat 64 16) = false := by
  decide
/-- The input of `refusing` where the byte at 0x2FF1 is a device's. -/
def withDevice : State :=
  { refusing with platform := { refusing.platform with readEffects := [{ lo := 0x2FF1#64, hi := 0x2FF1#64 }] } }
theorem witness_FrameRefusesReadSideEffects : withDevice.cursor.trailer = false ∧ 1 < withDevice.cursor.rem.toNat ∧
    AdmittedRun withDevice withDevice.cursor.cur 1 ∧ withDevice.admitR (withDevice.cursor.cur + BitVec.ofNat 64 1) = true ∧
    withDevice.readHasEffect (withDevice.cursor.cur + BitVec.ofNat 64 1) = true := by decide
theorem witness_RoundUpdatesWorkingRegisters : abcLastRound.t = 63 ∧ abcRound.t ≠ 63 := by decide

/-- P1 before the WRITE of digest byte k, the bytes of 0x2000..0x201F written before; `raced`: a host agent wrote this one. -/
def overOld (k : Fin 32) (raced : List Addr) : State :=
  { abcWrite k with mem := (List.range 32).map fun i => (0x2000 + i, 0x55#8), racedOut := raced }

theorem witness_WriteStoresOneDigestByte : (overOld 31 []).admitW ((overOld 31 []).dstL + BitVec.ofNat 64 31) = true ∧
    (overOld 31 []).dstL + BitVec.ofNat 64 31 ∉ (overOld 31 []).racedOut ∧
    ({ refusing with phase := .write, kw := 16 } : State).admitW (refusing.dstL + BitVec.ofNat 64 16) = false ∧
    refusing.dstL + BitVec.ofNat 64 16 ∉ refusing.racedOut := by decide
theorem witness_RacedDigestByteIsEither :
    (overOld 0 [0x2000#64]).admitW ((overOld 0 [0x2000#64]).dstL + BitVec.ofNat 64 0) = true ∧
    (overOld 0 [0x2000#64]).dstL + BitVec.ofNat 64 0 ∈ (overOld 0 [0x2000#64]).racedOut ∧
    (overOld 31 [0x201F#64]).kw = 31 ∧
    (overOld 31 [0x201F#64]).admitW ((overOld 31 [0x201F#64]).dstL + BitVec.ofNat 64 31) = true ∧
    (overOld 31 [0x201F#64]).dstL + BitVec.ofNat 64 31 ∈ (overOld 31 [0x201F#64]).racedOut := by decide
/-- 20_memory.md R74: the race raises no error, and the operation completes. -/
theorem test_write_last_raced : (after (overOld 31 [0x201F#64])).map (fun t => (t.statusWord, t.kw)) = some (2#32, 0) := by
  decide
theorem witness_RefusedWriteError :
    ({ refusing with phase := .write, kw := 16 } : State).admitW (refusing.dstL + BitVec.ofNat 64 16) = false := by decide
theorem witness_RotrBits : (0 < 1 ∧ 1 < 32) ∧ (0 < 31 ∧ 31 < 32) ∧ (rotr 1#32 31).getLsbD 1 = true ∧
    (rotr 1#32 1).getLsbD 31 = true := by decide
theorem witness_ResetEventAbandonsOperation : ({ abcFrame with inputs := [.reset] } : State).inputs = [.reset] ∧
    abcFrame.phase ≠ .unused6 ∧ abcFrame.phase ≠ .unused7 := by decide
theorem forall_of_none {P : Addr → Prop} {l : List Addr} (h : l = []) : ∀ a ∈ l, P a := by simp [h]
/-- A running state that meets the invariant, for StatusWriteClears. -/
theorem witness_StatusWriteClears : EngineInv abcFrame ∧ abcFrame.busy = true := by
  refine ⟨?_, by decide⟩
  constructor <;> first | exact forall_of_none rfl | decide
theorem witness_EngineInv_reset : EngineInv State.reset := by constructor <;> first | exact forall_of_none rfl | decide
/-- The invariant has running states: at the FRAME and at the last WRITE of P1. -/
theorem witness_StepKeepsEngineInvariant : EngineInv abcFrame ∧ EngineInv (abcWrite 31) ∧
    (after abcFrame).isSome = true ∧ (after (abcWrite 31)).isSome = true := by
  refine ⟨?_, ?_, by decide, by decide⟩ <;> constructor <;> first | exact forall_of_none rfl | decide
theorem witness_HashStateWriters : (after abcFold).map (fun t => t.h != abcFold.h) = some true ∧
    (hostAccess abc 0x10800000001).map (fun t => t.h != abc.h) = some true ∧
    (after { abcFold with inputs := [.reset] }).map (fun t => t.h != abcFold.h) = some true := by decide
theorem witness_OnlyAcceptedHashLeavesIdle : (hostAccess abc 0x10800000001).map (fun t => (abc.phase, t.phase)) =
    some (.idle, .frame) := by decide
theorem witness_StatusBitWriters :
    (hostAccess abcFrame 0x10800000001).map (fun t => (abcFrame.status.ovr, t.status.ovr)) = some (false, true) ∧
    (hostAccess failed 0x10C00000008).map (fun t => (failed.status.ovr, t.status.ovr)) = some (true, false) ∧
    (after { failed with inputs := [.reset] }).map (fun t => (failed.status.ovr, t.status.ovr)) = some (true, false) ∧
    (after (abcWrite 31)).map (fun t => ((abcWrite 31).status.done, t.status.done)) = some (false, true) ∧
    (hostAccess { failed with ops := abc.ops } 0x10800000001).map (fun t => (t.status.done, t.status.err)) = some (false, false) ∧
    (hostAccess failed 0x10C00000006).map (fun t => (t.status.done, t.status.err)) = some (false, false) ∧
    (after refusing).map (fun t => (refusing.status.err, t.status.err)) = some (false, true) ∧
    (after refusing).map (fun t => (refusing.errAddr, t.errAddr)) = some (0#64, 0x3000#64) := by decide
/-- Its ERR and ERRADDR clauses, at a HASH, an illegal command, a WRITE and a reset. -/
theorem witness_StatusBitWriters_errors :
    (hostAccess { atTop with ops := { atTop.ops with dstLo := 0xFFFFFFE1#32 } } 0x10800000001).map
      (fun t => (atTop.status.err, t.status.err)) = some (false, true) ∧
    (hostAccess abc 0x10800000007).map (fun t => (abc.status.err, t.status.err)) = some (false, true) ∧
    (after { refusing with phase := .write, kw := 16 }).map (fun t => (t.status.err, t.errAddr)) = some (true, 0x4010#64) ∧
    (hostAccess { failed with errAddr := 0x3000#64, ops := abc.ops } 0x10800000001).map (·.errAddr) = some 0#64 ∧
    (hostAccess { failed with errAddr := 0x3000#64 } 0x10800000007).map (·.errAddr) = some 0#64 ∧
    (after { failed with errAddr := 0x3000#64, inputs := [.reset] }).map (·.errAddr) = some 0#64 := by decide
theorem witness_MemoryWriters :
    (after (overOld 5 [])).map (fun t => t.mem.read? 0x2005) = some (some 0x01#8) ∧
    (overOld 5 []).mem.read? 0x2005 = some 0x55#8 ∧
    (after { abc with inputs := [.memStore 0x1000#64 7#8] }).map (fun t => t.mem.read? 0x1000) = some (some 7#8) ∧
    (after { abc with inputs := [.memPerform], posted := [(0x1000#64, 7#8)] }).map (fun t => t.mem.read? 0x1000) =
      some (some 7#8) := by decide
theorem witness_RegisterAccessFrame : (Instr.cmdHash 0#24).isAccess = true ∧ (hostAccess abc 0x10800000001).isSome = true ∧
    (hostAccess abcFrame 0x10800000001).isSome = true ∧ abcFrame.phase ≠ .idle := by decide
theorem witness_MicroStepFrame : Instr.frame.isAccess = false ∧ (after abcFrame).isSome = true ∧
    Instr.write.isAccess = false ∧ (after (abcWrite 31)).isSome = true ∧ Instr.frame ≠ .write := by decide
theorem witness_HiddenStateIsNotVisible : Instr.rdStatus.isAccess = true ∧ (Phase.round = .idle ↔ abcFrame.phase = .idle) ∧
    (hostAccess abcFrame 0x00C00000000).isSome = true := by decide
theorem witness_HostWritesRaceWithInputReads :
    abcFrame.phase ≠ .idle ∧ abcFrame.phase ≠ .unused6 ∧ abcFrame.phase ≠ .unused7 ∧
    abcFrame.cursor.cur.toNat ≤ (0x1002#64 : Addr).toNat ∧
    (0x1002#64 : Addr).toNat < abcFrame.cursor.cur.toNat + abcFrame.cursor.rem.toNat ∧
    ({ abcFrame with inputs := [.memStore 0x1002#64 0#8] } : State).inputs = [.memStore 0x1002#64 0#8] ∧
    ({ abcFrame with inputs := [.memPost 0x1002#64 0#8] } : State).inputs = [.memPost 0x1002#64 0#8] ∧
    (0x1000#64, 0#8) ∈ ({ abc with posted := [(0x1000#64, 0#8)] } : State).posted ∧
    abc.src.toNat ≤ (0x1000#64 : Addr).toNat ∧ (0x1000#64 : Addr).toNat < abc.src.toNat + abc.len.toNat ∧
    (hostAccess { abc with posted := [(0x1000#64, 0#8)] } 0x10800000001).map (·.phase) = some .frame := by decide
/-- P1 in its WRITE micro-steps, the byte at `a` written by the engine where no byte was written before. -/
def overwrote (a : Addr) : State :=
  { abcWrite 8 with mem := [(a.toNat, 0xBA#8)], overwritten := [(a, none)] }

theorem witness_HostWriteOfOutputByteIsEither :
    ({ abc with inputs := [.memStore 0x2000#64 0#8] } : State).inputs = [.memStore 0x2000#64 0#8] ∧ abc.phase = .idle ∧
    (abcWrite 8).phase ≠ .idle ∧ (abcWrite 8).phase ≠ .unused6 ∧ (abcWrite 8).phase ≠ .unused7 ∧
    (0x1FFF#64 : Addr).toNat < (abcWrite 8).dstL.toNat ∧ (abcWrite 8).dstL.toNat + 32 ≤ (0x2020#64 : Addr).toNat ∧
    (abcWrite 8).dstL.toNat ≤ (0x2000#64 : Addr).toNat ∧ (0x201F#64 : Addr).toNat < (abcWrite 8).dstL.toNat + 32 ∧
    (∀ old, (0x201F#64, old) ∉ (abcWrite 8).overwritten) ∧
    (∃ old, (0x2000#64, old) ∈ (overwrote 0x2000#64).overwritten) ∧ (overwrote 0x2000#64).phase ≠ .idle ∧
    ({ abcWrite 8 with inputs := [.memPerform], posted := [(0x201F#64, 7#8)] } : State).posted = (0x201F#64, 7#8) :: [] ∧
    ({ abcWrite 8 with inputs := [.memPerform] } : State).posted = [] :=
  ⟨rfl, rfl, by decide, by decide, by decide, by decide, by decide, by decide, by decide,
    fun _ h => (nomatch h), ⟨none, by decide⟩, by decide, rfl, rfl⟩
/-- 20_memory.md R74: a byte the engine has yet to write holds the host's byte, and its WRITE is to be a race. -/
theorem test_host_store_before_write : (after { abcWrite 8 with inputs := [.memStore 0x201F#64 7#8] }).map
    (fun t => (t.mem.read? 0x201F, t.racedOut)) = some (some 7#8, [0x201F#64]) := by decide
/-- P1 after its last FOLD: H is the digest, and no WRITE has run. -/
def afterTrailer : State := { abcWrite 0 with phase := .frame }

theorem witness_HostReadsSeeTheMemory :
    ({ abc with inputs := [.memLoad 0x1000#64] } : State).inputs = [.memLoad 0x1000#64] ∧
    (∀ v, (0x1000#64, v) ∉ abc.posted) ∧ abc.phase = .idle ∧ abc.phase ≠ .unused6 ∧ abc.phase ≠ .unused7 ∧
    (0x1FFF#64 : Addr).toNat < abcFrame.dstL.toNat ∧ abcFrame.dstL.toNat + 32 ≤ (0x2020#64 : Addr).toNat ∧
    (overwrote 0x2000#64).phase ≠ .idle ∧
    (overwrote 0x2000#64).dstL.toNat ≤ (0x2000#64 : Addr).toNat ∧
    (0x2000#64 : Addr).toNat < (overwrote 0x2000#64).dstL.toNat + 32 ∧
    (∃ old, (0x2000#64, old) ∈ (overwrote 0x2000#64).overwritten) :=
  ⟨rfl, fun _ h => (nomatch h), rfl, by decide, by decide, by decide, by decide, by decide, by decide, by decide,
    ⟨none, by decide⟩⟩
/-- Its clauses for a byte the engine has yet to write: in the last WRITE, after the trailer, behind a refused write, and before. -/
theorem witness_HostReadsSeeTheMemory_unwritten :
    ((abcWrite 31).phase = .write ∧ (31 : Fin 32).val = (abcWrite 31).kw.val ∧ (∀ old, (0x201F#64, old) ∉ (abcWrite 31).overwritten) ∧
      (0x201F#64 : Addr).toNat = (abcWrite 31).dstL.toNat + (31 : Fin 32).val ∧
      (abcWrite 31).admitW ((abcWrite 31).dstL + BitVec.ofNat 64 31) = true) ∧
    (afterTrailer.phase = .frame ∧ afterTrailer.cursor.trailer = true ∧ afterTrailer.platform.refusesW = [] ∧
      (∀ old, (0x2000#64, old) ∉ afterTrailer.overwritten)) ∧
    ({ refusing with phase := .write, kw := 15 } : State).admitW (refusing.dstL + BitVec.ofNat 64 16) = false ∧
    (abcFrame.phase = .frame ∧ abcFrame.cursor.trailer = false ∧ (∀ old, (0x201F#64, old) ∉ abcFrame.overwritten)) :=
  ⟨⟨rfl, rfl, fun _ h => (nomatch h), by decide, by decide⟩, ⟨rfl, rfl, rfl, fun _ h => (nomatch h)⟩, by decide,
    rfl, rfl, fun _ h => (nomatch h)⟩
theorem test_host_load_outside_output : (after { abcFrame with inputs := [.memLoad 0x1000#64] }).map (·.mdata) =
    some [(0x1000#64, 0x61#8)] := by decide
/-- 20_memory.md R74: behind a refused write there is no value after the engine's write. -/
theorem test_host_load_never_written : (after { refusing with
    phase := .write, mem := [(0x401F, 0x55#8)], inputs := [.memLoad 0x401F#64] }).map (fun t => (t.mdata, t.waiting)) =
    some ([(0x401F#64, 0x55#8)], []) := by decide
/-- 20_memory.md R74: an issued host write does not change that. -/
theorem test_host_load_output_with_issued_write : (after { refusing with
    phase := .write, mem := [(0x401F, 0x55#8)], posted := [(0x401F#64, 7#8)], inputs := [.memLoad 0x401F#64] }).map (·.mdata) =
    some [(0x401F#64, 0x55#8)] := by decide
/-- 20_memory.md R74: a read that waits gets the byte the engine wrote, and where the operation ends before, the one there. -/
theorem test_waiting_read_gets_written_byte : (after { abcWrite 5 with waiting := [0x2005#64, 0x201F#64] }).map
    (fun t => (t.mdata, t.waiting)) = some ([(0x2005#64, 0x01#8)], [0x201F#64]) := by decide
theorem test_waiting_read_of_ended_operation : (after { refusing with mem := refusing.mem ++ [(0x4000, 0x55#8)], waiting := [0x4000#64] }).map
    (fun t => (t.statusWord, t.mdata, t.waiting)) = some (0x00000306#32, [(0x4000#64, 0x55#8)], []) := by decide
theorem witness_BlockTakesSixtyFourRounds : abcRound.inputs = [] ∧ abcRound.phase = .round ∧ abcRound.t = 0 := by decide
theorem witness_BlockFoldsItsCompression : abcFrame.inputs = [] ∧ abcFrame.phase = .frame ∧
    produceNextBlock abcFrame =
      .block (blockOf abcBlock) { cur := 0x1003#64, rem := 0#64, lenL := 3#64, marker := true, trailer := true } 0 := by
  decide
theorem witness_DigestTakesThirtyTwoWrites : (abcWrite 0).inputs = [] ∧ (abcWrite 0).phase = .write ∧ (abcWrite 0).kw = 0 ∧
    (abcWrite 0).racedOut = [] ∧ AdmittedWrites (abcWrite 0) (abcWrite 0).dstL 32 :=
  ⟨rfl, rfl, rfl, rfl, fun _ _ => rfl⟩
theorem witness_HashWritesSha256OfInput :
    (abc.phase = .idle ∧ abc.inputs = [] ∧ abc.posted = [] ∧ abc.src.toNat + abc.len.toNat ≤ 2 ^ 64 ∧
      abc.dst.toNat + 32 ≤ 2 ^ 64 ∧ AdmittedRun abc abc.src abc.len.toNat ∧ AdmittedWrites abc abc.dst 32) ∧
    (atTop.src.toNat + atTop.len.toNat = 2 ^ 64 ∧ atTop.dst.toNat + 32 = 2 ^ 64 ∧
      AdmittedRun atTop atTop.src atTop.len.toNat ∧ AdmittedWrites atTop atTop.dst 32) :=
  ⟨⟨rfl, rfl, rfl, by decide, by decide, fun _ _ => ⟨rfl, rfl⟩, fun _ _ => rfl⟩, by decide, by decide,
    fun _ _ => ⟨rfl, rfl⟩, fun _ _ => rfl⟩

end Sys2Proof.Tests
end

section
/-! Statements of 00_scope.md. Whose turn a step gives, and that it runs the instruction the turn's code decodes to. -/

namespace Sys2Proof.Machine

/-- Where the fetch gives an instruction, the step is that instruction. -/
theorem step_of_fetch_run {s t : State} {i : Instr} (h : fetch s = .run i t) : step s = exec i t := by
  rw [step, h]

/-- With PHASE 6 or 7 a listed turn is taken from the list and the engine has it (30_encoding.md R88). -/
theorem fetch_input_reserved {s : State} {x : Input} {rest : List Input} (h : s.inputs = x :: rest)
    (hr : s.phaseReserved = true) : fetch s = fetchMicroStep { s with inputs := rest } := by
  simp [fetch, h, hr]

/-- A listed engine turn is the engine's in every phase (44_driver.md R173). -/
theorem fetch_engine {s : State} {rest : List Input} (h : s.inputs = .engine :: rest) :
    fetch s = fetchMicroStep { s with inputs := rest } := by
  cases hr : s.phaseReserved with
  | true => exact fetch_input_reserved h hr
  | false => exact fetch_input h hr

/-- The engine's turn runs what the code of PHASE decodes to. -/
theorem fetchMicroStep_ok {s : State} {i : Instr} (h : decode (.phase (phaseCode s.phase)) = .ok i) :
    fetchMicroStep s = .run i s :=
  fetchCode_ok h s

/-- Settles O5: in each clause the fetch gives the decoded instruction, by the rule for whose turn it is. -/
theorem stepRunsDecodedInstruction : Obligations.StepRunsDecodedInstruction := by
  refine ⟨?access, ?engine, ?noInput, ?reserved⟩
  case access =>
    intro s w rest i h6 h7 hin hd
    have hr : s.phaseReserved = false := (phaseReserved_eq_false s).mpr ⟨h6, h7⟩
    exact step_of_fetch_run ((fetch_input hin hr).trans (fetchCode_ok hd _))
  case engine =>
    intro s rest i hin hd
    exact step_of_fetch_run ((fetch_engine hin).trans (fetchMicroStep_ok hd))
  case noInput =>
    intro s i hin hd
    have hi : decodePhase (phaseCode s.phase) = i := Except.ok.inj ((decode_phaseCode s.phase).symm.trans hd)
    exact step_of_fetch_run (hi ▸ fetch_no_input hin)
  case reserved =>
    intro s x rest i hp hin hd
    have hr : s.phaseReserved = true := by simpa [State.phaseReserved] using hp
    exact step_of_fetch_run ((fetch_input_reserved hin hr).trans (fetchMicroStep_ok hd))

end Sys2Proof.Machine
end

section
/-! Statements of 10_state.md: which steps write the completion bits of STATUS, and ERRADDR. What one step can do to them is
said once, as `StatusChange`; each clause reads it off. -/

namespace Sys2Proof.Machine

/-! ### What a step can do to STATUS and ERRADDR. -/

/-- The step runs CMD_HASH. -/
abbrev RunsHash (s : State) : Prop := ∃ g u, fetch s = .run (.cmdHash g) u

/-- The step runs CMD_ILLEGAL. -/
abbrev RunsIllegal (s : State) : Prop := ∃ c g u, fetch s = .run (.cmdIllegal c g) u

/-- The step of s can end with this ERRCODE and this ERRADDR (10_state.md R38, 44_driver.md R181). -/
inductive ErrorOrigin (s : State) : ErrCode → Addr → Prop where
  | range (hp : s.phase = .idle) (hf : RunsHash s) : ErrorOrigin s .range 0#64
  | illegalCmd (hp : s.phase = .idle) (hf : RunsIllegal s) : ErrorOrigin s .illegalCmd 0#64
  | busRead (a : Addr) (hf : ∃ u, fetch s = .run .frame u) : ErrorOrigin s .busRead a
  | busWrite (a : Addr) (hf : ∃ u, fetch s = .run .write u) : ErrorOrigin s .busWrite a

/-- How the step from s to t treats STATUS and ERRADDR, and which step does so (10_state.md R37, R42). -/
inductive StatusChange (s t : State) : Prop where
  | kept (hs : t.status = s.status) (ha : t.errAddr = s.errAddr)
  | dropped (hp : s.phase ≠ .idle) (hf : RunsHash s ∨ RunsIllegal s)
      (hs : t.status = { s.status with ovr := true }) (ha : t.errAddr = s.errAddr)
  | acknowledged (v : Word) (hf : ∃ u, fetch s = .run (.wrStatus v) u)
      (hs : t.status = s.status.clear v) (ha : t.errAddr = s.errAddr)
  | accepted (hp : s.phase = .idle) (hf : RunsHash s) (hs : t.status = s.status.accept) (ha : t.errAddr = 0#64)
  | completed (hf : ∃ u, fetch s = .run .write u) (hp : t.phase = .idle)
      (hs : t.status = { s.status with done := true }) (ha : t.errAddr = s.errAddr)
  | failed (c : ErrCode) (a : Addr) (ho : ErrorOrigin s c a) (hp : t.phase = .idle)
      (hs : t.status = { s.status with done := true, err := true, errcode := c }) (ha : t.errAddr = a)
  | reset (hi : s.inputs.head? = some .reset) (hs : t.status = Status.reset)

/-! ### The host's memory accesses leave both. -/

theorem hostStore_keeps_status (s : State) (a : Addr) (v : Byte) :
    (hostStore s a v).status = s.status ∧ (hostStore s a v).errAddr = s.errAddr := by
  obtain ⟨m, d, ri, ro, e, -⟩ := hostStore_cases s a v
  exact e ▸ ⟨rfl, rfl⟩

theorem hostPost_keeps_status (s : State) (a : Addr) (v : Byte) :
    (hostPost s a v).status = s.status ∧ (hostPost s a v).errAddr = s.errAddr := by
  obtain ⟨ri, e, -⟩ := hostPost_cases s a v
  exact e ▸ ⟨rfl, rfl⟩

theorem hostPerform_keeps_status (s : State) :
    (hostPerform s).status = s.status ∧ (hostPerform s).errAddr = s.errAddr := by
  rcases hostPerform_cases s with e | ⟨a, v, rest, -, e⟩
  · simp only [e, and_self]
  · exact e ▸ hostStore_keeps_status { s with posted := rest } a v

theorem hostLoad_keeps_status (s : State) (a : Addr) :
    (hostLoad s a).status = s.status ∧ (hostLoad s a).errAddr = s.errAddr := by
  rcases hostLoad_cases s a with ⟨b, d, e⟩ | ⟨e, -⟩
  · exact e ▸ ⟨rfl, rfl⟩
  · exact e ▸ ⟨rfl, rfl⟩

/-! ### Every step is one of these changes. -/

/-- A turn that is no instruction resets both, or leaves them. -/
theorem moved_statusChange {s t : State} (h : fetch s = .moved t) : StatusChange s t := by
  obtain ⟨x, rest, hi, hx⟩ := fetch_moved h
  rcases hx with ⟨rfl, rfl⟩ | ⟨a, v, -, rfl⟩ | ⟨a, v, -, rfl⟩ | ⟨-, rfl⟩ | ⟨a, -, rfl⟩
  · exact .reset (by simp [hi]) (resetEngine_status _)
  · obtain ⟨hs, ha⟩ := hostStore_keeps_status { s with inputs := rest } a v
    exact .kept hs ha
  · obtain ⟨hs, ha⟩ := hostPost_keeps_status { s with inputs := rest } a v
    exact .kept hs ha
  · obtain ⟨hs, ha⟩ := hostPerform_keeps_status { s with inputs := rest }
    exact .kept hs ha
  · obtain ⟨hs, ha⟩ := hostLoad_keeps_status { s with inputs := rest } a
    exact .kept hs ha

section
variable {s t : State} {r : List Input}

/-- accept_hash() clears the completion, and with its ranges outside the address space ends with RANGE. -/
theorem acceptHash_statusChange (hp : s.phase = .idle) (hf : RunsHash s) :
    StatusChange s (acceptHash { s with inputs := r }) := by
  rcases accept_cases { s with inputs := r } with ⟨-, e⟩ | ⟨-, e⟩ <;> rw [e]
  · exact .accepted hp hf rfl rfl
  · exact .failed .range 0#64 (.range hp hf) rfl rfl rfl

/-- A register access writes the two only as an acknowledgement or a command (45_register_access.md R197 to R201). -/
theorem access_statusChange {i : Instr} (hf : fetch s = .run i { s with inputs := r }) (ha : i.isAccess = true)
    (he : exec i { s with inputs := r } = .next t) : StatusChange s t := by
  rcases access_next ha he with rfl | ⟨v, rfl⟩ | ⟨-, rfl⟩ | ⟨v, -, rfl⟩ | ⟨v, rfl, rfl⟩ | ⟨o, rfl⟩ | ⟨hp, rfl, hc⟩ |
    ⟨hp, ⟨g, rfl⟩, rfl⟩ | ⟨hp, ⟨c, g, rfl⟩, rfl⟩
  · exact .kept rfl rfl
  · exact .kept rfl rfl
  · exact .kept rfl rfl
  · exact .kept rfl rfl
  · exact .acknowledged v ⟨_, hf⟩ rfl rfl
  · exact .kept rfl rfl
  · refine .dropped hp ?_ rfl rfl
    rcases hc with ⟨g, rfl⟩ | ⟨c, g, rfl⟩
    · exact .inl ⟨g, _, hf⟩
    · exact .inr ⟨c, g, _, hf⟩
  · exact acceptHash_statusChange hp ⟨g, _, hf⟩
  · exact .failed .illegalCmd 0#64 (.illegalCmd hp ⟨c, g, _, hf⟩) rfl rfl rfl

/-- FRAME writes the two only where the memory refuses a read. -/
theorem frame_statusChange (hf : fetch s = .run .frame { s with inputs := r })
    (he : exec .frame { s with inputs := r } = .next t) : StatusChange s t := by
  rcases frame_next he with ⟨rfl, -⟩ | ⟨b, c, d, rfl, -⟩ | ⟨a, d, rfl⟩
  · exact .kept rfl rfl
  · exact .kept rfl rfl
  · exact .failed .busRead a (.busRead a ⟨_, hf⟩) rfl rfl rfl

/-- WRITE writes the two at the last digest byte, or where the memory refuses it. -/
theorem write_statusChange (hf : fetch s = .run .write { s with inputs := r })
    (he : exec .write { s with inputs := r } = .next t) : StatusChange s t := by
  rcases write_next he with ⟨m, d, o, q, w, k, rfl, -⟩ | ⟨m, d, o, q, w, rfl, -⟩ | rfl
  · exact .kept rfl rfl
  · exact .completed ⟨_, hf⟩ rfl rfl rfl
  · exact .failed .busWrite _ (.busWrite _ ⟨_, hf⟩) rfl rfl rfl

/-- ROUND has two ends, and neither is a completion. -/
theorem round_statusChange (he : exec .round { s with inputs := r } = .next t) : StatusChange s t := by
  rw [exec_round, execRound] at he
  split at he <;> cases he
  · exact .kept rfl rfl
  · exact .kept rfl rfl

end

/-- Everything a step can do to STATUS and ERRADDR. -/
theorem step_statusChange {s t : State} (h : step s = .next t) : StatusChange s t := by
  rcases step_next h with ⟨i, u, hf, he⟩ | hm
  · obtain ⟨r, rfl, hi⟩ := run_cases hf
    rcases hi with ha | ⟨-, rfl⟩ | ⟨-, rfl⟩ | ⟨-, rfl⟩ | ⟨-, rfl⟩ | ⟨-, rfl⟩ | ⟨-, rfl⟩ | rfl | rfl
    · exact access_statusChange hf ha he
    · cases he; exact .kept rfl rfl
    · exact frame_statusChange hf he
    · cases he; exact .kept rfl rfl
    · exact round_statusChange he
    · cases he; exact .kept rfl rfl
    · exact write_statusChange hf he
    · cases he
    · cases he
  · exact moved_statusChange hm

/-! ### The clauses, bit by bit. -/

namespace StatusChange

variable {s t : State} (h : StatusChange s t)
include h

theorem ovr_set (h0 : s.status.ovr = false) (h1 : t.status.ovr = true) :
    s.phase ≠ .idle ∧ (RunsHash s ∨ RunsIllegal s) := by
  cases h with
  | dropped hp hf => exact ⟨hp, hf⟩
  | _ => simp_all [Status.clear, Status.accept, Status.reset]

theorem ovr_cleared (h0 : s.status.ovr = true) (h1 : t.status.ovr = false) :
    (∃ v u, fetch s = .run (.wrStatus v) u ∧ v.getLsbD 3 = true) ∨ s.inputs.head? = some .reset := by
  cases h with
  | acknowledged v hf hs =>
    obtain ⟨u, hu⟩ := hf
    exact .inl ⟨v, u, hu, by simpa [hs, Status.clear, h0] using h1⟩
  | reset hi => exact .inr hi
  | _ => simp_all [Status.accept]

theorem done_set (h0 : s.status.done = false) (h1 : t.status.done = true) :
    t.phase = .idle ∧ ((s.phase = .idle ∧ RunsHash s) ∨ (s.phase = .idle ∧ RunsIllegal s) ∨
      (∃ u, fetch s = .run .frame u) ∨ ∃ u, fetch s = .run .write u) := by
  cases h with
  | completed hf hp => exact ⟨hp, .inr (.inr (.inr hf))⟩
  | failed c a ho hp =>
    refine ⟨hp, ?_⟩
    cases ho with
    | range hi hf => exact .inl ⟨hi, hf⟩
    | illegalCmd hi hf => exact .inr (.inl ⟨hi, hf⟩)
    | busRead a hf => exact .inr (.inr (.inl hf))
    | busWrite a hf => exact .inr (.inr (.inr hf))
  | _ => simp_all [Status.clear, Status.accept, Status.reset]

theorem err_set (h0 : s.status.err = false) (h1 : t.status.err = true) :
    t.status.done = true ∧ t.phase = .idle ∧
      ((s.phase = .idle ∧ RunsHash s ∧ t.status.errcode = .range) ∨
        (s.phase = .idle ∧ RunsIllegal s ∧ t.status.errcode = .illegalCmd) ∨
        ((∃ u, fetch s = .run .frame u) ∧ t.status.errcode = .busRead) ∨
        ((∃ u, fetch s = .run .write u) ∧ t.status.errcode = .busWrite)) := by
  cases h with
  | failed c a ho hp hs =>
    rw [hs]
    refine ⟨rfl, hp, ?_⟩
    cases ho with
    | range hi hf => exact .inl ⟨hi, hf, rfl⟩
    | illegalCmd hi hf => exact .inr (.inl ⟨hi, hf, rfl⟩)
    | busRead a hf => exact .inr (.inr (.inl ⟨hf, rfl⟩))
    | busWrite a hf => exact .inr (.inr (.inr ⟨hf, rfl⟩))
  | _ => simp_all [Status.clear, Status.accept, Status.reset]

theorem done_cleared (h0 : s.status.done = true) (h1 : t.status.done = false) :
    (s.phase = .idle ∧ RunsHash s) ∨ (∃ v u, fetch s = .run (.wrStatus v) u ∧ v.getLsbD 1 = true) ∨
      s.inputs.head? = some .reset := by
  cases h with
  | accepted hp hf => exact .inl ⟨hp, hf⟩
  | acknowledged v hf hs =>
    obtain ⟨u, hu⟩ := hf
    exact .inr (.inl ⟨v, u, hu, by simpa [hs, Status.clear, h0] using h1⟩)
  | reset hi => exact .inr (.inr hi)
  | _ => simp_all

theorem err_cleared (h0 : s.status.err = true) (h1 : t.status.err = false) :
    (s.phase = .idle ∧ RunsHash s) ∨ (∃ v u, fetch s = .run (.wrStatus v) u ∧ v.getLsbD 2 = true) ∨
      s.inputs.head? = some .reset := by
  cases h with
  | accepted hp hf => exact .inl ⟨hp, hf⟩
  | acknowledged v hf hs =>
    obtain ⟨u, hu⟩ := hf
    exact .inr (.inl ⟨v, u, hu, by simpa [hs, Status.clear, h0] using h1⟩)
  | reset hi => exact .inr (.inr hi)
  | _ => simp_all

theorem errAddr_changed (h1 : t.errAddr ≠ s.errAddr) :
    (s.phase = .idle ∧ RunsHash s ∧ t.errAddr = 0#64) ∨ (s.phase = .idle ∧ RunsIllegal s ∧ t.errAddr = 0#64) ∨
      ((∃ u, fetch s = .run .frame u) ∧ t.status.errcode = .busRead ∧ t.status.err = true ∧ t.phase = .idle) ∨
      ((∃ u, fetch s = .run .write u) ∧ t.status.errcode = .busWrite ∧ t.status.err = true ∧ t.phase = .idle) ∨
      s.inputs.head? = some .reset := by
  cases h with
  | accepted hp hf hs ha => exact .inl ⟨hp, hf, ha⟩
  | failed c a ho hp hs ha =>
    rw [hs]
    cases ho with
    | range hi hf => exact .inl ⟨hi, hf, ha⟩
    | illegalCmd hi hf => exact .inr (.inl ⟨hi, hf, ha⟩)
    | busRead a hf => exact .inr (.inr (.inl ⟨hf, rfl, rfl, hp⟩))
    | busWrite a hf => exact .inr (.inr (.inr (.inl ⟨hf, rfl, rfl, hp⟩)))
  | reset hi => exact .inr (.inr (.inr (.inr hi)))
  | kept hs ha => exact absurd ha h1
  | dropped hp hf hs ha => exact absurd ha h1
  | acknowledged v hf hs ha => exact absurd ha h1
  | completed hf hp hs ha => exact absurd ha h1

end StatusChange

/-- Settles O47: every step is a `StatusChange`, and each clause is a fact about those changes. -/
theorem statusBitWriters : Obligations.StatusBitWriters := by
  intro s t h
  have hc := step_statusChange h
  exact ⟨hc.ovr_set, hc.ovr_cleared, hc.done_set, hc.err_set, hc.done_cleared, hc.err_cleared, hc.errAddr_changed⟩

end Sys2Proof.Machine
end

section
/-! Statements of 20_memory.md: the bytes a step writes, the races of host writes with the engine's reads and writes, and what a
host read gets. What each turn does to a byte of memory is said once, by operation; each statement reads it off. -/

namespace Sys2Proof.Machine

open Sys2Proof.Safety

/-! ### Bytes of two memories that differ in one cell at most. -/

theorem byteAt_of_mem_eq {s t : State} (h : t.mem = s.mem) (a : Addr) : t.byteAt a = s.byteAt a := by
  rw [State.byteAt, h, State.byteAt]

section
variable {s t : State} {a : Addr} {v : Byte}

theorem byteAt_of_mem_write_same (h : t.mem = s.mem.write a.toNat v) : t.byteAt a = v :=
  (byteAt_of_mem_eq (s := { s with mem := s.mem.write a.toNat v }) h a).trans (byteAt_write_same s a v)

theorem byteAt_of_mem_write_other {c : Addr} (h : t.mem = s.mem.write a.toNat v) (hc : c ≠ a) :
    t.byteAt c = s.byteAt c :=
  (byteAt_of_mem_eq (s := { s with mem := s.mem.write a.toNat v }) h c).trans (byteAt_write_other s v hc)

end

/-- A store at `b`, made or not, changes no byte but that at `b`. -/
theorem byteAt_eq_of_store_other {s t : State} {b c : Addr} (h : (∃ v, t.mem = s.mem.write b.toNat v) ∨ t.mem = s.mem)
    (hc : c ≠ b) : t.byteAt c = s.byteAt c := by
  rcases h with ⟨v, h⟩ | h
  · exact byteAt_of_mem_write_other h hc
  · exact byteAt_of_mem_eq h c

/-! ### A turn that is no instruction. -/

/-- A listed turn that is no instruction is taken in every legal phase. -/
theorem step_of_moved {s t : State} {x : Input} {rest : List Input} (h6 : s.phase ≠ .unused6) (h7 : s.phase ≠ .unused7)
    (hin : s.inputs = x :: rest) (hm : fetchInput x { s with inputs := rest } = .moved t) : step s = .next t := by
  rw [step, fetch_input hin ((phaseReserved_eq_false s).mpr ⟨h6, h7⟩), hm]

/-! ### FRAME over an input byte whose reads have side effects. -/

/-- The padder reads the first 64 bytes left, or all where there are fewer, and stops at a device's byte among them. -/
theorem produceNextBlock_effect {s : State} {j : Nat} (ht : s.cursor.trailer = false) (hj : j < 64)
    (hr : j < s.cursor.rem.toNat) (h : AdmittedRun s s.cursor.cur j) (ha : s.admitR (addrAfter s.cursor.cur j) = true)
    (hx : s.readHasEffect (addrAfter s.cursor.cur j) = true) : produceNextBlock s = .effect := by
  have he : ∀ n, j < n → s.readRun n s.cursor.cur s.draws = .effectAt (addrAfter s.cursor.cur j) :=
    fun n hn => readRun_effect s n j s.cursor.cur s.draws hn h ha hx
  by_cases hb : 64 ≤ s.cursor.rem.toNat
  · simp only [produceNextBlock, ht, hb, he 64 hj, if_true, if_false, Bool.false_eq_true]
  · simp only [produceNextBlock, ht, hb, he s.cursor.rem.toNat hr, if_false, Bool.false_eq_true]

/-- Settles O30: the padder's run of reads ends at the device's byte. -/
theorem frameRefusesReadSideEffects : Obligations.FrameRefusesReadSideEffects := by
  intro s j ht hj hr h ha hx
  have he : produceNextBlock s = .effect := produceNextBlock_effect ht hj hr h ha hx
  rw [exec_frame, execFrame, he]

/-! ### WRITE. -/

/-- An admitted WRITE, a race or not: all it does, the byte it leaves apart (44_driver.md R178 to R180). -/
theorem exec_write_admitted {s : State} (hw : s.admitW s.digestAddr = true) :
    ∃ m d, exec .write s = .next { s with
        mem := m, draws := d
        overwritten := (s.digestAddr, s.mem.read? s.digestAddr.toNat) :: s.overwritten
        mdata := if s.digestAddr ∈ s.waiting then [(s.digestAddr, ({ s with mem := m } : State).byteAt s.digestAddr)]
          else s.mdata
        waiting := s.waiting.filter (· ≠ s.digestAddr)
        kw := if s.kw = 31 then 0 else s.kw + 1
        phase := if s.kw = 31 then .idle else s.phase
        status := if s.kw = 31 then { s.status with done := true } else s.status } ∧
      (m = s.mem.write s.digestAddr.toNat (digestByte s.h s.kw) ∨ (s.digestAddr ∈ s.racedOut ∧ m = s.mem)) := by
  obtain ⟨m, d, he, hm⟩ := engineStore_cases s s.digestAddr (digestByte s.h s.kw)
  refine ⟨m, d, ?_, hm⟩
  have hf : s.waiting.filter (· != s.digestAddr) = s.waiting.filter (· ≠ s.digestAddr) :=
    List.filter_congr fun x _ => by rw [Bool.eq_iff_iff, bne_iff_ne, decide_eq_true_eq]
  simp only [exec_write, execWrite, hw, he, hf, if_true, List.contains_iff_mem]
  by_cases hk : s.kw = 31
  · simp only [if_pos hk, completeOk]
  · simp only [if_neg hk]

/-- Settles O35: an admitted WRITE leaves the digest byte or, the byte being a race, what was there. -/
theorem racedDigestByteIsEither : Obligations.RacedDigestByteIsEither := by
  intro s hw hr
  obtain ⟨m, d, he, hm⟩ := exec_write_admitted hw
  have hs : (∃ v, ({ s with mem := m } : State).mem = s.mem.write s.digestAddr.toNat v) ∨
      ({ s with mem := m } : State).mem = s.mem := hm.imp (fun e => ⟨_, e⟩) And.right
  refine ⟨m, d, he, fun a ha => byteAt_eq_of_store_other hs ha, ?_⟩
  rcases hm with hm | ⟨-, hm⟩
  · have hb : ({ s with mem := m } : State).byteAt s.digestAddr = digestByte s.h s.kw := byteAt_of_mem_write_same hm
    exact .inl ((congrArg BitVec.toNat hb).trans (digestByte_toNat s.h s.kw))
  · exact .inr (byteAt_of_mem_eq hm _)

/-- A byte that WRITE changes is the admitted digest byte. -/
theorem write_byteAt_changed {s t : State} {a : Addr} (h : exec .write s = .next t) (hne : t.byteAt a ≠ s.byteAt a) :
    a = s.digestAddr ∧ s.admitW a = true := by
  have of_store (hw : s.admitW s.digestAddr = true)
      (hm : (∃ v, t.mem = s.mem.write s.digestAddr.toNat v) ∨ t.mem = s.mem) : a = s.digestAddr ∧ s.admitW a = true := by
    have ha : a = s.digestAddr := not_imp_comm.1 (byteAt_eq_of_store_other hm) hne
    exact ⟨ha, ha ▸ hw⟩
  rcases write_next h with ⟨m, d, o, r, w, k, rfl, hw, -, -, -, -, hm⟩ | ⟨m, d, o, r, w, rfl, hw, -, -, -, hm⟩ | rfl
  · exact of_store hw hm
  · exact of_store hw hm
  · exact absurd (byteAt_of_mem_eq rfl a) hne

/-! ### The other instructions leave the memory. -/

theorem acceptHash_mem (s : State) : (acceptHash s).mem = s.mem := by
  rcases accept_cases s with ⟨-, e⟩ | ⟨-, e⟩
  · rw [e, latchOperation_mem, clearCompletion_mem]
  · rw [e, completeError_mem, clearCompletion_mem]

theorem access_keeps_mem {i : Instr} {s t : State} (ha : i.isAccess = true) (h : exec i s = .next t) : t.mem = s.mem := by
  rcases access_next ha h with rfl | ⟨v, rfl⟩ | ⟨-, rfl⟩ | ⟨v, -, rfl⟩ | ⟨v, -, rfl⟩ | ⟨o, rfl⟩ | ⟨-, rfl, -⟩ |
    ⟨-, -, rfl⟩ | ⟨-, -, rfl⟩
  · rfl
  · exact answer_mem s v
  · exact answerDraw_mem s
  · rfl
  · exact acknowledge_mem s v
  · rfl
  · exact overrun_mem s
  · exact acceptHash_mem s
  · exact completeError_mem s _ _

theorem exec_keeps_mem {i : Instr} {s t : State} (hi : i ≠ .write) (h : exec i s = .next t) : t.mem = s.mem := by
  cases i with
  | idle => cases h; rfl
  | frame =>
    rcases frame_next h with ⟨rfl, -⟩ | ⟨b, c, d, rfl, -⟩ | ⟨a, d, rfl⟩
    · rfl
    · rfl
    · rw [completeError_mem, afterRefusedRead_mem, answerWaiting_mem]
  | sched => cases h; rfl
  | round =>
    rw [exec_round, execRound] at h
    split at h <;> cases h
    · rfl
    · rfl
  | fold => cases h; rfl
  | write => exact absurd rfl hi
  | phaseRsvd6 => cases h
  | phaseRsvd7 => cases h
  | _ => exact access_keeps_mem rfl h

/-! ### What a host agent's turn does to the memory. -/

theorem hostStore_mem (s : State) (a : Addr) (v : Byte) :
    (hostStore s a v).mem = s.mem.write a.toNat v ∨ (hostStore s a v).mem = s.mem := by
  obtain ⟨m, d, ri, ro, e, hm, -⟩ := hostStore_cases s a v
  rw [e]
  exact hm.imp_right And.right

theorem hostStore_byteAt_other (s : State) {a c : Addr} (v : Byte) (hc : c ≠ a) :
    (hostStore s a v).byteAt c = s.byteAt c :=
  byteAt_eq_of_store_other ((hostStore_mem s a v).imp_left (Exists.intro v)) hc

theorem hostStore_byteAt_same (s : State) (a : Addr) (v : Byte) :
    (hostStore s a v).byteAt a = v ∨ (hostStore s a v).byteAt a = s.byteAt a :=
  (hostStore_mem s a v).imp byteAt_of_mem_write_same fun h => byteAt_of_mem_eq h a

theorem hostPost_mem (s : State) (a : Addr) (v : Byte) : (hostPost s a v).mem = s.mem := by
  obtain ⟨ri, e, -⟩ := hostPost_cases s a v
  rw [e]

theorem hostLoad_mem (s : State) (a : Addr) : (hostLoad s a).mem = s.mem := by
  rcases hostLoad_cases s a with ⟨b, d, e⟩ | ⟨e, -⟩
  · rw [e]
  · rw [e, waitByte_mem]

/-! ### Which turns change a byte. -/

/-- A byte that a turn of no instruction changes is that of a host write performed in it. -/
theorem moved_byteAt_changed {s t : State} {a : Addr} (h : fetch s = .moved t) (hne : t.byteAt a ≠ s.byteAt a) :
    (∃ v, s.inputs.head? = some (.memStore a v)) ∨
      (s.inputs.head? = some .memPerform ∧ ∃ v, s.posted.head? = some (a, v)) := by
  obtain ⟨x, rest, hi, hx⟩ := fetch_moved h
  have hh : s.inputs.head? = some x := by rw [hi, List.head?_cons]
  rcases hx with ⟨rfl, rfl⟩ | ⟨b, v, rfl, rfl⟩ | ⟨b, v, rfl, rfl⟩ | ⟨rfl, rfl⟩ | ⟨b, rfl, rfl⟩
  · exact absurd (byteAt_of_mem_eq (resetEngine_mem _) a) hne
  · have hab : a = b := not_imp_comm.1 (hostStore_byteAt_other { s with inputs := rest } v) hne
    exact .inl ⟨v, hab ▸ hh⟩
  · exact absurd (byteAt_of_mem_eq (hostPost_mem _ b v) a) hne
  · rcases hostPerform_cases { s with inputs := rest } with e | ⟨b, v, q, hp, e⟩ <;> rw [e] at hne
    · exact absurd rfl hne
    · have hab : a = b := not_imp_comm.1 (hostStore_byteAt_other { s with inputs := rest, posted := q } v) hne
      exact .inr ⟨hh, v, by rw [show s.posted = (b, v) :: q from hp, hab, List.head?_cons]⟩
  · exact absurd (byteAt_of_mem_eq (hostLoad_mem _ b) a) hne

/-- Settles O48: of the instructions only WRITE changes a byte, and of the other turns only a host write performed. -/
theorem memoryWriters : Obligations.MemoryWriters := by
  intro s t a h hne
  rcases step_next h with ⟨i, u, hf, he⟩ | hm
  · obtain ⟨r, rfl, -⟩ := fetch_run hf
    have hi : i = .write := not_imp_comm.1 (fun hi => byteAt_of_mem_eq (exec_keeps_mem hi he) a) hne
    subst hi
    obtain ⟨ha, hw⟩ := write_byteAt_changed he hne
    exact .inl ⟨⟨_, hf⟩, ha, hw⟩
  · exact .inr (moved_byteAt_changed hm hne)

/-! ### Host writes and the engine's reads. -/

theorem within_eq_true {lo a : Addr} {n : Nat} (h1 : lo.toNat ≤ a.toNat) (h2 : a.toNat < lo.toNat + n) :
    within lo n a = true := by
  simp only [within, h1, h2, decide_true, Bool.and_self]

theorem unreadInput_of_range {s : State} {a : Addr} (h : s.phase ≠ .idle) (h1 : s.cursor.cur.toNat ≤ a.toNat)
    (h2 : a.toNat < s.cursor.cur.toNat + s.cursor.rem.toNat) : s.unreadInput a = true := by
  simp [State.unreadInput, State.busy, h, within_eq_true h1 h2]

theorem mem_racedIn_hostStore {s : State} {a : Addr} (v : Byte) (h : s.unreadInput a = true) :
    a ∈ (hostStore s a v).racedIn := by
  obtain ⟨m, d, ri, ro, e, -, hri⟩ := hostStore_cases s a v
  simp [e, hri, h]

theorem mem_racedIn_hostPost {s : State} {a : Addr} (v : Byte) (h : s.unreadInput a = true) :
    a ∈ (hostPost s a v).racedIn := by
  obtain ⟨ri, e, hri⟩ := hostPost_cases s a v
  simp [e, hri, h]

theorem hostPost_posted (s : State) (a : Addr) (v : Byte) : (hostPost s a v).posted = s.posted ++ [(a, v)] := by
  obtain ⟨ri, e, -⟩ := hostPost_cases s a v
  rw [e]

/-- An acceptance that begins the operation records every issued write to the input as a race (70_reset_and_hazards.md R264). -/
theorem mem_racedIn_acceptHash {s : State} {a : Addr} {v : Byte} (hp : (a, v) ∈ s.posted) (h1 : s.src.toNat ≤ a.toNat)
    (h2 : a.toNat < s.src.toNat + s.len.toNat) (hf : (acceptHash s).phase = .frame) : a ∈ (acceptHash s).racedIn := by
  rcases accept_cases s with ⟨-, e⟩ | ⟨-, e⟩ <;> rw [e] at hf ⊢
  · exact List.mem_filter.2 ⟨List.mem_map.2 ⟨_, hp, rfl⟩, within_eq_true h1 h2⟩
  · cases hf

/-- Settles O52: a host write of an unread byte enters the list at its turn, one issued before at the acceptance. -/
theorem hostWritesRaceWithInputReads : Obligations.HostWritesRaceWithInputReads := by
  refine ⟨?running, ?acceptance⟩
  case running =>
    intro s a v rest hb h6 h7 h1 h2
    have hu : ({ s with inputs := rest } : State).unreadInput a = true := unreadInput_of_range hb h1 h2
    refine ⟨fun hin => ?store, fun hin => ?post⟩
    case store => exact ⟨_, step_of_moved h6 h7 hin rfl, mem_racedIn_hostStore v hu⟩
    case post =>
      exact ⟨_, step_of_moved h6 h7 hin rfl, mem_racedIn_hostPost v hu, hostPost_mem _ a v, hostPost_posted _ a v⟩
  case acceptance =>
    intro s t a v g hi hp h1 h2 he hf
    have hb : s.busy = false := by simp [State.busy, hi]
    rw [exec_cmdHash, execCmdHash, hb] at he
    cases he
    exact mem_racedIn_acceptHash hp h1 h2 hf

/-! ### Host writes and the output bytes. -/

theorem hostStore_byteAt_outside {s : State} {a : Addr} (v : Byte) (ho : s.inOutput a = false) :
    (hostStore s a v).byteAt a = v := by
  rw [hostStore_outside v ho]
  exact byteAt_of_mem_write_same rfl

theorem hostStore_byteAt_unwritten {s : State} {a : Addr} (v : Byte) (ho : s.inOutput a = true)
    (hn : s.oldOutput a = none) : (hostStore s a v).byteAt a = v ∧ a ∈ (hostStore s a v).racedOut := by
  rw [hostStore_unwritten v ho hn]
  exact ⟨byteAt_of_mem_write_same rfl, List.mem_cons_self⟩

/-- A host write performed now, a store or the oldest issued one, is a host store in a state that differs from s in the turns
to come and the writes still issued. -/
theorem step_hostWrite {s : State} {a : Addr} {v : Byte} {rest : List Input} (h6 : s.phase ≠ .unused6)
    (h7 : s.phase ≠ .unused7)
    (hin : s.inputs = .memStore a v :: rest ∨ s.inputs = .memPerform :: rest ∧ ∃ q, s.posted = (a, v) :: q) :
    ∃ p, step s = .next (hostStore { s with inputs := rest, posted := p } a v) := by
  rcases hin with hin | ⟨hin, q, hq⟩
  · exact ⟨s.posted, step_of_moved h6 h7 hin rfl⟩
  · exact ⟨q, step_of_moved h6 h7 hin (by simp only [fetchInput, hostPerform, hq])⟩

/-- Settles O53: a host write performed is a host store, which each clause reads off where the byte lies. -/
theorem hostWriteOfOutputByteIsEither : Obligations.HostWriteOfOutputByteIsEither := by
  refine ⟨?performed, ?noneIssued⟩
  case performed =>
    intro s a v rest h6 h7 hin
    obtain ⟨p, hs⟩ := step_hostWrite h6 h7 hin
    refine ⟨_, hs, fun c hc => hostStore_byteAt_other _ v hc, fun h => ?outside, fun hb h1 h2 hn => ?unwritten,
      fun _ _ _ _ => hostStore_byteAt_same _ a v⟩
    case outside => exact hostStore_byteAt_outside v (inOutput_eq_false h)
    case unwritten => exact hostStore_byteAt_unwritten v (inOutput_of_range hb h1 h2) (oldOutput_none hn)
  case noneIssued =>
    intro s rest h6 h7 hin hp
    exact step_of_moved h6 h7 hin (by simp only [fetchInput, hostPerform, hp])

/-! ### Host reads. -/

/-- A host read is answered, or waits. -/
theorem hostLoad_answer_or_wait (s : State) (a : Addr) :
    (∃ v, (hostLoad s a).mdata = [(a, v)] ∧ (hostLoad s a).waiting = s.waiting) ∨
      ((hostLoad s a).mdata = s.mdata ∧ (hostLoad s a).waiting = s.waiting ++ [a]) := by
  rcases hostLoad_cases s a with ⟨b, d, e⟩ | ⟨e, -⟩ <;> rw [e]
  · exact .inl ⟨b, rfl, rfl⟩
  · exact .inr ⟨rfl, rfl⟩

theorem hostLoad_waiting_outside {s : State} {a : Addr} (ho : s.inOutput a = false) :
    (hostLoad s a).waiting = s.waiting := by
  rcases hostLoad_cases s a with ⟨b, d, e⟩ | ⟨-, hi, -⟩
  · rw [e]
  · exact absurd (hi.symm.trans ho) Bool.noConfusion

theorem hostLoad_mdata_plain {s : State} {a : Addr} (hp : ∀ v, (a, v) ∉ s.posted) (ho : s.inOutput a = false) :
    (hostLoad s a).mdata = [(a, s.byteAt a)] := by
  rw [hostLoad_plain hp ho, answerByte_mdata]

/-- A read of an output byte the engine has written gets the byte there or the one the record holds. -/
theorem hostLoad_mdata_written {s : State} {a : Addr} (ho : s.inOutput a = true) (h : ∃ old, (a, old) ∈ s.overwritten) :
    ∃ old, (a, old) ∈ s.overwritten ∧
      (hostLoad s a).mdata = [(a, if Config.freeBit s.draws then s.byteAt a else old.getD (Config.initialByte a))] := by
  obtain ⟨old, hl, hmem⟩ := oldOutput_some h
  exact ⟨old, hmem, by rw [hostLoad_written ho hl, answerByteDraw_mdata]⟩

/-- A read of an output byte before H is the digest gets the byte there, or waits for the engine's write. -/
theorem hostLoad_early_choice {s : State} {a : Addr} (ho : s.inOutput a = true) (hn : s.oldOutput a = none)
    (hf : s.digestFinal = false) :
    if Config.freeBit s.draws then (hostLoad s a).mdata = [(a, s.byteAt a)] ∧ (hostLoad s a).waiting = s.waiting
    else (hostLoad s a).mdata = s.mdata ∧ (hostLoad s a).waiting = s.waiting ++ [a] := by
  rw [hostLoad_early ho hn hf]
  by_cases hc : Config.freeBit s.draws = true
  · simp only [if_pos hc, answerByteDraw_mdata, answerByteDraw_waiting, and_self]
  · simp only [if_neg hc, waitByte_mdata, waitByte_waiting, and_self]

theorem digestFinal_eq_true {s : State} :
    s.digestFinal = true ↔ s.phase = .write ∨ (s.phase = .frame ∧ s.cursor.trailer = true) := by
  simp [State.digestFinal]

/-- A read of digest byte k, not written yet, H being the digest and the engine coming to write it. -/
theorem hostLoad_mdata_reached {s : State} {a : Addr} {k : Fin 32} (ho : s.inOutput a = true) (hn : s.oldOutput a = none)
    (hf : s.digestFinal = true) (hk : a.toNat = s.dstL.toNat + k.val) (hr : s.writesReach k = true) :
    (hostLoad s a).mdata = [(a, if Config.freeBit s.draws then s.byteAt a else digestByte s.h k)] := by
  rw [hostLoad_final ho hn hf hk, if_pos hr, answerByteDraw_mdata]

/-- A read of digest byte k, not written yet, H being the digest and a write before it or its own never made. -/
theorem hostLoad_mdata_unreached {s : State} {a : Addr} {k : Fin 32} (ho : s.inOutput a = true)
    (hn : s.oldOutput a = none) (hf : s.digestFinal = true) (hk : a.toNat = s.dstL.toNat + k.val)
    (hr : s.writesReach k = false) : (hostLoad s a).mdata = [(a, s.byteAt a)] := by
  rw [hostLoad_final ho hn hf hk, hr, if_neg Bool.false_ne_true, answerByte_mdata]

/-- The engine does not come to write digest byte k that it has passed, or that a refused write stands before. -/
theorem writesReach_eq_false {s : State} {k : Fin 32}
    (h : k.val < (if s.phase = .write then s.kw.val else 0) ∨
      ∃ j, (if s.phase = .write then s.kw.val else 0) ≤ j ∧ j ≤ k.val ∧ s.admitW (addrAfter s.dstL j) = false) :
    s.writesReach k = false := by
  rw [← Bool.not_eq_true, writesReach_eq_true]
  rintro ⟨hn, hw⟩
  rcases h with h | ⟨j, h1, h2, hj⟩
  · omega
  · exact absurd ((hw j h1 h2).symm.trans hj) Bool.noConfusion

/-- Settles O54: the turn is a host load, which answers by where the byte lies and how far the engine has come. -/
theorem hostReadsSeeTheMemory : Obligations.HostReadsSeeTheMemory := by
  intro s a rest h6 h7 hin
  refine ⟨_, step_of_moved h6 h7 hin rfl, hostLoad_mem _ a, hostLoad_answer_or_wait _ a, ?outside, ?written, ?final, ?early⟩
  case outside =>
    intro h
    have ho : ({ s with inputs := rest } : State).inOutput a = false := inOutput_eq_false h
    exact ⟨hostLoad_waiting_outside ho, fun hp => hostLoad_mdata_plain hp ho⟩
  case written =>
    intro hb h1 h2 hw
    exact hostLoad_mdata_written (s := { s with inputs := rest }) (inOutput_of_range hb h1 h2) hw
  case final =>
    intro hn hf k hk
    have hb : s.phase ≠ .idle := by rcases hf with hf | ⟨hf, -⟩ <;> simp [hf]
    have h1 : s.dstL.toNat ≤ a.toNat := by omega
    have h2 : a.toNat < s.dstL.toNat + 32 := by omega
    have ho : ({ s with inputs := rest } : State).inOutput a = true := inOutput_of_range hb h1 h2
    have hno : ({ s with inputs := rest } : State).oldOutput a = none := oldOutput_none hn
    have hfin : ({ s with inputs := rest } : State).digestFinal = true := digestFinal_eq_true.2 hf
    refine ⟨fun hle hw => ?reached, fun h => ?unreached⟩
    case reached => exact hostLoad_mdata_reached ho hno hfin hk ((writesReach_eq_true _ k).2 ⟨hle, hw⟩)
    case unreached => exact hostLoad_mdata_unreached ho hno hfin hk (writesReach_eq_false h)
  case early =>
    intro hn hb hw hf h1 h2
    have hfin : ({ s with inputs := rest } : State).digestFinal = false := by
      rw [← Bool.not_eq_true, digestFinal_eq_true]
      rintro (h | ⟨h, ht⟩)
      · exact hw h
      · exact absurd ((hf h).symm.trans ht) Bool.noConfusion
    exact hostLoad_early_choice (s := { s with inputs := rest }) (inOutput_of_range hb h1 h2) (oldOutput_none hn) hfin

end Sys2Proof.Machine
end

section
/-! Statements of 30_encoding.md: the decoder and the encoder against each other, the words that are no instruction, the bus
access that is a transaction word, and the reserved PHASE codes. What a transaction word of each shape decodes to is said once,
by `busWord_cases` and one equation per shape. -/

namespace Sys2Proof

/-! ### The shapes of a transaction word, and what each decodes to. -/

theorem lane_cases (l : BitVec 2) : l = 0#2 ∨ l = 1#2 ∨ l = 2#2 ∨ l = 3#2 := by revert l; decide

/-- Every register selector is that of one register (30_encoding.md R82). -/
theorem exists_encodeSlot (r : BitVec 6) : ∃ x, r = encodeSlot x := ⟨decodeSlot r, (encodeSlot_decodeSlot r).symm⟩

/-- The shapes of a transaction word: a misaligned lane, a write, a read, and a read that carries data (30_encoding.md R80,
R81). -/
theorem busWord_cases {P : BitVec 41 → Prop}
    (lane1 : ∀ wr r d, P (busWord wr r 1#2 d))
    (lane2 : ∀ wr r d, P (busWord wr r 2#2 d))
    (lane3 : ∀ wr r d, P (busWord wr r 3#2 d))
    (write : ∀ x d, P (busWord true (encodeSlot x) 0#2 d))
    (read : ∀ x, P (busWord false (encodeSlot x) 0#2 0#32))
    (readData : ∀ x d, d ≠ 0#32 → P (busWord false (encodeSlot x) 0#2 d)) (w : BitVec 41) : P w := by
  rw [← busWord_fields w]
  generalize wordIsWrite w = wr, wordReg w = r, wordLane w = l, wordData w = d
  rcases lane_cases l with rfl | rfl | rfl | rfl
  · obtain ⟨x, rfl⟩ := exists_encodeSlot r
    cases wr with
    | true => exact write x d
    | false =>
      by_cases hd : d = 0#32
      · exact hd ▸ read x
      · exact readData x d hd
  · exact lane1 wr r d
  · exact lane2 wr r d
  · exact lane3 wr r d

@[simp] theorem decodeWord_lane1 (wr : Bool) (r : BitVec 6) (d : Word) :
    decodeWord (busWord wr r 1#2 d) = some (.misaligned1 wr r d) := by
  simp [decodeWord, wordLane_busWord, wordIsWrite_busWord, wordReg_busWord, wordData_busWord]

@[simp] theorem decodeWord_lane2 (wr : Bool) (r : BitVec 6) (d : Word) :
    decodeWord (busWord wr r 2#2 d) = some (.misaligned2 wr r d) := by
  simp [decodeWord, wordLane_busWord, wordIsWrite_busWord, wordReg_busWord, wordData_busWord]

@[simp] theorem decodeWord_lane3 (wr : Bool) (r : BitVec 6) (d : Word) :
    decodeWord (busWord wr r 3#2 d) = some (.misaligned3 wr r d) := by
  simp [decodeWord, wordLane_busWord, wordIsWrite_busWord, wordReg_busWord, wordData_busWord]

@[simp] theorem decodeWord_write (x : Slot) (d : Word) :
    decodeWord (busWord true (encodeSlot x) 0#2 d) = some (decodeWrite x d) := by
  simp [decodeWord, wordLane_busWord, wordIsWrite_busWord, wordReg_busWord, wordData_busWord, decodeSlot_encodeSlot]

@[simp] theorem decodeWord_read (x : Slot) :
    decodeWord (busWord false (encodeSlot x) 0#2 0#32) = some (decodeRead x) := by
  simp [decodeWord, wordLane_busWord, wordIsWrite_busWord, wordReg_busWord, wordData_busWord, decodeSlot_encodeSlot]

theorem decodeWord_readData (x : Slot) {d : Word} (hd : d ≠ 0#32) :
    decodeWord (busWord false (encodeSlot x) 0#2 d) = none := by
  simp [decodeWord, wordLane_busWord, wordIsWrite_busWord, wordData_busWord, hd]

theorem decode_bus_eq_ok {w : BitVec 41} {i : Instr} : decode (.bus w) = .ok i ↔ decodeWord w = some i := by
  cases h : decodeWord w <;> simp [decode, h]

/-! ### The command in the low byte of a CMD write (30_encoding.md R83, R84). -/

theorem decodeCommand_nop (g : BitVec 24) : decodeCommand (commandData 0x00#8 g) = .cmdNop g := by
  simp [decodeCommand, commandData_code, commandData_ignored]

theorem decodeCommand_hash (g : BitVec 24) : decodeCommand (commandData 0x01#8 g) = .cmdHash g := by
  simp [decodeCommand, commandData_code, commandData_ignored]

theorem illegalCode_eq_true {c : Byte} : illegalCode c = true ↔ c ≠ 0x00#8 ∧ c ≠ 0x01#8 := by simp [illegalCode]

theorem decodeCommand_illegal {c : Byte} (hc : illegalCode c = true) (g : BitVec 24) :
    decodeCommand (commandData c g) = .cmdIllegal c g := by
  obtain ⟨h0, h1⟩ := illegalCode_eq_true.mp hc
  simp [decodeCommand, commandData_code, commandData_ignored, h0, h1]

/-- A CMD write decodes to a well-formed command whose words it is. -/
theorem decodeCommand_wf_encode (d : Word) :
    (decodeCommand d).wf = true ∧ encode (decodeCommand d) = writeWord .cmd d := by
  rw [← commandData_fields d]
  generalize d.extractLsb' 0 8 = c, d.extractLsb' 8 24 = g
  by_cases h0 : c = 0x00#8
  · subst h0; rw [decodeCommand_nop]; exact ⟨rfl, rfl⟩
  · by_cases h1 : c = 0x01#8
    · subst h1; rw [decodeCommand_hash]; exact ⟨rfl, rfl⟩
    · have hc : illegalCode c = true := illegalCode_eq_true.mpr ⟨h0, h1⟩
      rw [decodeCommand_illegal hc]; exact ⟨hc, rfl⟩

/-! ### The tables of reads, writes and micro-steps, and their encodings. -/

theorem decode_readWord (x : Slot) : decode (readWord x) = .ok (decodeRead x) :=
  decode_bus_eq_ok.mpr (decodeWord_read x)

theorem decode_writeWord (x : Slot) (d : Word) : decode (writeWord x d) = .ok (decodeWrite x d) :=
  decode_bus_eq_ok.mpr (decodeWord_write x d)

theorem decode_commandWord {d : Word} {i : Instr} (h : decodeCommand d = i) : decode (writeWord .cmd d) = .ok i :=
  h ▸ decode_writeWord .cmd d

theorem decodeRead_wf_encode (x : Slot) : (decodeRead x).wf = true ∧ encode (decodeRead x) = readWord x := by
  cases x <;> exact ⟨rfl, rfl⟩

theorem decodeWrite_wf_encode (x : Slot) (d : Word) :
    (decodeWrite x d).wf = true ∧ encode (decodeWrite x d) = writeWord x d := by
  cases x
  case cmd => exact decodeCommand_wf_encode d
  all_goals exact ⟨rfl, rfl⟩

theorem decodePhase_wf_encode (c : BitVec 3) : (decodePhase c).wf = true ∧ encode (decodePhase c) = .phase c := by
  revert c; decide

/-- The row a transaction word matches is that of a well-formed instruction whose words it is. -/
theorem decodeWord_wf_encode {w : BitVec 41} {i : Instr} (h : decodeWord w = some i) :
    i.wf = true ∧ encode i = .bus w := by
  induction w using busWord_cases with
  | lane1 wr r d => rw [decodeWord_lane1] at h; cases h; exact ⟨rfl, rfl⟩
  | lane2 wr r d => rw [decodeWord_lane2] at h; cases h; exact ⟨rfl, rfl⟩
  | lane3 wr r d => rw [decodeWord_lane3] at h; cases h; exact ⟨rfl, rfl⟩
  | write x d => rw [decodeWord_write] at h; cases h; exact decodeWrite_wf_encode x d
  | read x => rw [decodeWord_read] at h; cases h; exact decodeRead_wf_encode x
  | readData x d hd => rw [decodeWord_readData x hd] at h; cases h

/-! ### The obligations on the decoder. -/

/-- Settles O1: row by row, the words are a read, a write or a misaligned access, whose decoding is known, or a PHASE code. -/
theorem decodeOfEncode : Obligations.DecodeOfEncode
  | .rdId, _ | .rdCtrl, _ | .rdCmd, _ | .rdStatus, _ | .rdSrcLo, _ | .rdSrcHi, _ | .rdLenLo, _ | .rdLenHi, _
  | .rdDstLo, _ | .rdDstHi, _ | .rdErrAddrLo, _ | .rdErrAddrHi, _
  | .rdHash _, _ | .rdRsvd30 _, _ | .rdRsvd60 _, _ | .rdRsvd80 _, _ => decode_readWord _
  | .wrId _, _ | .wrCtrl _, _ | .wrStatus _, _ | .wrSrcLo _, _ | .wrSrcHi _, _ | .wrLenLo _, _ | .wrLenHi _, _
  | .wrDstLo _, _ | .wrDstHi _, _ | .wrErrAddrLo _, _ | .wrErrAddrHi _, _
  | .wrHash _ _, _ | .wrRsvd30 _ _, _ | .wrRsvd60 _ _, _ | .wrRsvd80 _ _, _ => decode_writeWord _ _
  | .cmdNop g, _ => decode_commandWord (decodeCommand_nop g)
  | .cmdHash g, _ => decode_commandWord (decodeCommand_hash g)
  | .cmdIllegal _ g, hc => decode_commandWord (decodeCommand_illegal hc g)
  | .misaligned1 wr r d, _ => decode_bus_eq_ok.mpr (decodeWord_lane1 wr r d)
  | .misaligned2 wr r d, _ => decode_bus_eq_ok.mpr (decodeWord_lane2 wr r d)
  | .misaligned3 wr r d, _ => decode_bus_eq_ok.mpr (decodeWord_lane3 wr r d)
  | .idle, _ | .frame, _ | .sched, _ | .round, _ | .fold, _ | .write, _ | .phaseRsvd6, _ | .phaseRsvd7, _ => rfl

/-- Settles O2, for transaction words by their shapes and for the eight PHASE codes by the table of R88. -/
theorem encodeOfDecode : Obligations.EncodeOfDecode := by
  intro c i h
  cases c with
  | bus w => exact decodeWord_wf_encode (decode_bus_eq_ok.mp h)
  | phase c => cases h; exact decodePhase_wf_encode c

/-- Settles O3: of the shapes of a transaction word, the read that carries data is the one that decodes to nothing. -/
theorem decodeRejectsExactlyReadsWithData : Obligations.DecodeRejectsExactlyReadsWithData := by
  intro w
  simp only [decode_bus_eq_ok]
  change _ ↔ ¬(_ ∧ _ ∧ _ ∧ wordData w ≠ 0#32)
  induction w using busWord_cases with
  | lane1 | lane2 | lane3 | write => simp [getLsbD_busWord]
  | read x => simp [wordData_busWord]
  | readData x d hd =>
    simp only [decodeWord_readData x hd, getLsbD_busWord, wordData_busWord]
    simp [hd]

/-- Settles O4: the decoder computes each of the ten words. -/
theorem wordsOfTheTableDecode : Obligations.WordsOfTheTableDecode :=
  ⟨rfl, rfl, rfl, rfl, rfl, rfl, rfl, rfl, rfl, rfl⟩

end Sys2Proof

namespace Sys2Proof.Machine

/-! ### The obligations on a step. -/

theorem phaseReserved_eq_true {s : State} : s.phaseReserved = true ↔ s.phase = .unused6 ∨ s.phase = .unused7 := by
  simp [State.phaseReserved]

/-- A 32-bit access at an offset of the window is the transaction word of that offset (10_state.md R33). -/
theorem transactionWord_window {base addr : Addr} {off : BitVec 8} (h : addr.toNat = base.toNat + off.toNat) (wr : Bool)
    (v : Word) :
    transactionWord base addr 32 wr v = some (BitVec.ofBool wr ++ (off ++ (if wr then v else 0#32))) := by
  have hoff : addr.toNat - base.toNat = off.toNat := by omega
  have hin : base.toNat ≤ addr.toNat ∧ addr.toNat < base.toNat + windowBytes := by
    have := off.isLt
    simp only [windowBytes]
    omega
  rw [transactionWord, if_pos ⟨rfl, hin⟩, hoff, BitVec.ofNat_toNat, BitVec.setWidth_eq]

theorem fetchInput_bus {addr : Addr} {bits : Nat} {wr : Bool} {v : Word} {s : State} {w : BitVec 41}
    (h : transactionWord s.platform.base addr bits wr v = some w) :
    fetchInput (.bus addr bits wr v) s = fetchInput (.access w) s := by
  simp only [fetchInput, fetchBus, h]

/-- Two turns whose fetch is the same in the state with the turn taken make the same step; with PHASE 6 or 7 any two do
(30_encoding.md R88). -/
theorem step_congr_input {s : State} {x y : Input} {rest : List Input} (hin : s.inputs = x :: rest)
    (h : fetchInput x { s with inputs := rest } = fetchInput y { s with inputs := rest }) :
    step s = step { s with inputs := y :: rest } := by
  cases hr : s.phaseReserved with
  | true =>
    have hr' : ({ s with inputs := y :: rest } : State).phaseReserved = true := hr
    rw [step_reserved hr, step_reserved hr']
  | false =>
    have hy : fetch { s with inputs := y :: rest } = fetchInput y { s with inputs := rest } := fetch_input rfl hr
    rw [step, step, fetch_input hin hr, hy, h]

/-- Settles O8: the two turns have the same fetch, the access being the transaction word of its offset. -/
theorem windowAccessIsItsTransactionWord : Obligations.WindowAccessIsItsTransactionWord := by
  intro s addr wr v rest off hin haddr
  exact step_congr_input hin (fetchInput_bus (transactionWord_window haddr wr v))

/-- Settles O9: by the meaning of the two rows, and by the rule that such a state is refused at every turn. -/
theorem reservedPhaseIsRefused : Obligations.ReservedPhaseIsRefused :=
  ⟨fun _ => ⟨rfl, rfl⟩, fun _ hp => step_reserved (phaseReserved_eq_true.mpr hp)⟩

end Sys2Proof.Machine
end

section
/-! Statements of 40_word_ops.md: the word operations bit by bit and byte by byte, over the laws of `rotr`, `be64Byte` and
`wordByte`. -/

namespace Sys2Proof.Machine

/-! ### Rotations and mixing functions. -/

/-- Settles O37: this is the law of the rotation. -/
theorem rotrBits : Obligations.RotrBits := getLsbD_rotr

/-- Settles O38: exclusive or works bit by bit, a rotation's bit is given by its law, and a shift's bit lies n places up. -/
theorem mixingFunctionBits : Obligations.MixingFunctionBits := by
  intro x i hi
  have shift (n : Nat) : (x >>> n).getLsbD i = x.getLsbD (i + n) := by
    rw [BitVec.getLsbD_ushiftRight, Nat.add_comm]
  refine ⟨?s0, ?s1, ?bigS0, ?bigS1⟩
  case s0 => simp only [s0, BitVec.getLsbD_xor, getLsbD_rotr, hi, shift]
  case s1 => simp only [s1, BitVec.getLsbD_xor, getLsbD_rotr, hi, shift]
  case bigS0 => simp only [bigS0, BitVec.getLsbD_xor, getLsbD_rotr, hi]
  case bigS1 => simp only [bigS1, BitVec.getLsbD_xor, getLsbD_rotr, hi]

/-! ### Choose and majority. -/

/-- The bit of a choice (R109), from the selected bits of both operands. -/
theorem choose_bit (e f g : Bool) : ((e && f) ^^ (!e && g)) = if e = true then f else g := by
  cases e
  · exact Bool.false_xor g
  · exact Bool.xor_false f

/-- Of three bits at least two are 1 exactly when the pairs that are both 1 are odd in number: one pair or three (R110). -/
theorem majority_bit (a b c : Bool) :
    ((a && b) ^^ (a && c) ^^ (b && c)) = decide (2 ≤ a.toNat + b.toNat + c.toNat) := by
  revert a b c; decide

/-- Settles O39: at each bit the two functions are the choice and the majority of the operands' bits there. -/
theorem chooseAndMajorityBits : Obligations.ChooseAndMajorityBits := by
  intro x y z i hi
  constructor
  · rw [← choose_bit]
    simp only [ch, BitVec.getLsbD_xor, BitVec.getLsbD_and, BitVec.getLsbD_not, hi, decide_true, Bool.true_and]
  · rw [← majority_bit]
    simp only [maj, BitVec.getLsbD_xor, BitVec.getLsbD_and]

/-! ### Big-endian bytes. -/

/-- Appended bit vectors as a number: the first is the more significant. -/
theorem toNat_append_eq_add {m n : Nat} (x : BitVec m) (y : BitVec n) : (x ++ y).toNat = x.toNat * 2 ^ n + y.toNat := by
  rw [BitVec.toNat_append, ← Nat.shiftLeft_add_eq_or_of_lt y.isLt, Nat.shiftLeft_eq]

/-- The word of four bytes as a number (R111). -/
theorem be32_toNat (b0 b1 b2 b3 : Byte) :
    (be32 b0 b1 b2 b3).toNat = b0.toNat * 2 ^ 24 + b1.toNat * 2 ^ 16 + b2.toNat * 2 ^ 8 + b3.toNat := by
  simp only [be32, toNat_append_eq_add, Nat.add_assoc]

/-- The list of be64_bytes holds byte j at index j (R112). -/
theorem be64Bytes_getElem? (v : BitVec 64) (j : Fin 8) : (be64Bytes v)[j.val]? = some (be64Byte v j) := by
  fin_cases j <;> rfl

/-- Settles O40: the numbers of a word of four bytes, of a byte of the trailer and of a byte of a word. -/
theorem bigEndianSerialisation : Obligations.BigEndianSerialisation :=
  ⟨be32_toNat, fun v j hj => ⟨_, be64Bytes_getElem? v ⟨j, hj⟩, be64Byte_toNat v ⟨j, hj⟩⟩, wordByte_toNat⟩

end Sys2Proof.Machine
end

section
/-! Statements of 41_padder.md: the block FRAME produces, and the invariant of the engine, which holds the padder's cursor to its
flag order (R132). What produce_next_block gives is said once for each of R121 to R127, and a tail block is read byte by byte. -/

namespace Sys2Proof.Machine

open Sys2Proof.Safety

/-! ### What produce_next_block gives. -/

theorem produceNextBlock_eq_noMore {s : State} : produceNextBlock s = .noMore ↔ s.cursor.trailer = true := by
  refine ⟨fun h => ?_, fun ht => by simp only [produceNextBlock, ht, if_true]⟩
  rcases produceNextBlock_cases s with ⟨-, ht⟩ | ⟨b, d, -, -, e⟩ | ⟨b, tr, d, -, -, e⟩ | ⟨a, d, e⟩ | e
  · exact ht
  all_goals
    rw [e] at h
    cases h

/-- With 64 bytes left or more the block is the 64 bytes read (41_padder.md R122). -/
theorem produceNextBlock_full {s : State} {bs : List Byte} {d : Nat} (ht : s.cursor.trailer = false)
    (hr : 64 ≤ s.cursor.rem.toNat) (h : s.readRun 64 s.cursor.cur s.draws = .bytes bs d) :
    produceNextBlock s =
      .block (blockOf bs) { s.cursor with cur := addrAfter s.cursor.cur 64, rem := s.cursor.rem - 64#64 } d := by
  simp only [produceNextBlock, ht, hr, h, if_true, if_false, Bool.false_eq_true]

/-- With fewer the block is the tail of the bytes read (41_padder.md R123 to R126). -/
theorem produceNextBlock_tail {s : State} {bs : List Byte} {d : Nat} (ht : s.cursor.trailer = false)
    (hr : s.cursor.rem.toNat < 64) (h : s.readRun s.cursor.rem.toNat s.cursor.cur s.draws = .bytes bs d) :
    produceNextBlock s =
      .block (blockOf (tailBlock (withMarker bs s.cursor.marker) s.cursor.lenL))
        { s.cursor with cur := addrAfter s.cursor.cur s.cursor.rem.toNat, rem := 0#64, marker := true
                        trailer := trailerFits (withMarker bs s.cursor.marker) } d := by
  simp only [produceNextBlock, ht, Nat.not_le.2 hr, h, if_false, Bool.false_eq_true]

theorem exec_frame_block {s : State} {b : Vector Byte 64} {c : Cursor} {d : Nat} (h : produceNextBlock s = .block b c d) :
    exec .frame s = .next { s with blk := b, cursor := c, draws := d, phase := .sched } := by
  rw [exec_frame, execFrame, h]

/-! ### The bytes of a tail block. -/

section
variable {body : List Byte} {l : Addr} {j : Nat}

theorem trailerFits_eq_true : trailerFits body = true ↔ 8 ≤ 64 - body.length := decide_eq_true_iff

/-- A tail block begins with its body. -/
theorem tailBlock_getD_body (hj : j < body.length) : (tailBlock body l).getD j 0#8 = body.getD j 0#8 := by
  unfold tailBlock
  split
  · rw [List.append_assoc, List.getD_append _ _ _ _ hj]
  · rw [List.getD_append _ _ _ _ hj]

/-- Zeros follow the body, up to the trailer where it fits (41_padder.md R125, R126). -/
theorem tailBlock_getD_zero (hb : body.length ≤ j) (ht : trailerFits body = true → j < 56) :
    (tailBlock body l).getD j 0#8 = 0#8 := by
  have zeros (n : Nat) : (body ++ List.replicate n 0#8).getD j 0#8 = 0#8 := by
    rw [List.getD_append_right _ _ _ _ hb, List.getD_eq_getElem?_getD, List.getElem?_getD_replicate_default_eq]
  unfold tailBlock
  split
  · have hj : j < (body ++ List.replicate (56 - body.length) 0#8).length := by
      have := ht ‹_›
      rw [List.length_append, List.length_replicate]; omega
    rw [List.getD_append _ _ _ _ hj, zeros]
  · exact zeros _

/-- Where the trailer fits, the last 8 bytes are it (41_padder.md R125, R127). -/
theorem tailBlock_getD_trailer (ht : trailerFits body = true) (k : Fin 8) :
    (tailBlock body l).getD (56 + k.val) 0#8 = be64Byte (BitVec.ofNat 64 (8 * l.toNat)) k := by
  have hl : (body ++ List.replicate (56 - body.length) 0#8).length = 56 := by
    have := trailerFits_eq_true.1 ht
    rw [List.length_append, List.length_replicate]; omega
  rw [tailBlock, if_pos ht, List.getD_append_right _ _ _ _ (by omega), hl, Nat.add_sub_cancel_left, trailerBytes,
    List.getD_eq_getElem?_getD, be64Bytes_getElem?, Option.getD_some]

/-- Byte j of a block that ends in the trailer, as a number (41_padder.md R127). -/
theorem tailBlock_trailer_toNat (ht : trailerFits body = true) (h1 : 56 ≤ j) (h2 : j < 64) :
    ((tailBlock body l).getD j 0#8).toNat = 8 * l.toNat % 2 ^ 64 / 2 ^ (8 * (63 - j)) % 256 := by
  obtain ⟨k, rfl⟩ : ∃ k : Fin 8, j = 56 + k.val := ⟨⟨j - 56, by omega⟩, by simp only; omega⟩
  rw [tailBlock_getD_trailer ht, be64Byte_toNat, BitVec.toNat_ofNat, show 8 * (63 - (56 + k.val)) = 56 - 8 * k.val by omega]

end

/-! ### FRAME. -/

/-- Settles O26: the padder has no more blocks, and FRAME goes to WRITE. -/
theorem frameAfterTrailer : Obligations.FrameAfterTrailer := by
  intro s ht
  rw [exec_frame, execFrame, produceNextBlock_eq_noMore.2 ht]

/-- Settles O27: the block is the run of 64 reads, whose bytes are the memory's where they are no race. -/
theorem frameFullBlock : Obligations.FrameFullBlock := by
  intro s ht hr ha
  obtain ⟨bs, d, hrun, -, hbs⟩ := readRun_admitted s 64 s.cursor.cur s.draws ha
  refine ⟨blockOf bs, d, exec_frame_block (produceNextBlock_full ht hr hrun), fun j hj => ?_⟩
  rw [blockOf_get, List.getD_eq_getElem?_getD, hbs j j.isLt hj, Option.getD_some]; rfl

/-- Settles O28: the block is the tail of the reads, whose body is the bytes read and the marker that was not yet emitted. -/
theorem frameTail : Obligations.FrameTail := by
  intro s ht hr ha
  obtain ⟨bs, d, hrun, hlen, hbs⟩ := readRun_admitted s _ s.cursor.cur s.draws ha
  have hbody : (withMarker bs s.cursor.marker).length = tailLength s := by rw [withMarker_length, hlen, tailLength]
  have hcur : addrAfter s.cursor.cur s.cursor.rem.toNat = s.cursor.cur + s.cursor.rem := by
    rw [addrAfter, BitVec.ofNat_toNat, BitVec.setWidth_eq]
  have hblock := produceNextBlock_tail ht hr hrun
  rw [hcur] at hblock
  refine ⟨_, d, _, exec_frame_block hblock, ?fits, ?copied, ?marker, ?zeros, ?trailer⟩
  case fits => rw [trailerFits_eq_true, hbody]
  case copied =>
    intro j hj hn
    rw [blockOf_get, tailBlock_getD_body (by rw [hbody, tailLength]; omega), List.getD_eq_getElem?_getD, withMarker_at,
      if_pos (hlen ▸ hj), hbs j hj hn, Option.getD_some]
    rfl
  case marker =>
    intro j hm hj
    rw [blockOf_get, tailBlock_getD_body (by rw [hbody, tailLength, hm, hj]; simp), List.getD_eq_getElem?_getD, withMarker_at,
      if_neg (by omega), if_pos ⟨hm, hj.trans hlen.symm⟩, Option.getD_some]
  case zeros =>
    intro j hj h56
    rw [blockOf_get, tailBlock_getD_zero (hbody ▸ hj) h56]
  case trailer =>
    intro hf j hj
    rw [blockOf_get, tailBlock_trailer_toNat hf hj j.isLt]

end Sys2Proof.Machine

namespace Sys2Proof.Safety

open Sys2Proof.Machine

/-! ### The cursor of a running operation. -/

/-- What the invariant asks of the cursor while BUSY (20_memory.md R71, 41_padder.md R122, R132). -/
structure CursorInv (c : Cursor) : Prop where
  range : c.cur.toNat + c.rem.toNat ≤ 2 ^ 64
  remaining : c.rem.toNat ≤ c.lenL.toNat
  trailer : c.trailer = true → c.marker = true
  marker : c.marker = true → c.rem = 0#64
  blocks : c.marker = false → (c.lenL.toNat - c.rem.toNat) % 64 = 0

/-- The cursor at acceptance, its range in the address space (44_driver.md R171). -/
theorem CursorInv.start {a n : Addr} (h : a.toNat + n.toNat ≤ 2 ^ 64) :
    CursorInv { cur := a, rem := n, lenL := n, marker := false, trailer := false } where
  range := h
  remaining := le_rfl
  trailer := Bool.noConfusion
  marker := Bool.noConfusion
  blocks _ := by rw [Nat.sub_self, Nat.zero_mod]

/-- A full block moves the cursor by 64 bytes, and leaves the marker to a later one (41_padder.md R122). -/
theorem CursorInv.full {c : Cursor} (h : CursorInv c) (hr : 64 ≤ c.rem.toNat) :
    CursorInv { c with cur := addrAfter c.cur 64, rem := c.rem - 64#64 } := by
  have hrem : (c.rem - 64#64).toNat = c.rem.toNat - 64 := BitVec.toNat_sub_of_le hr
  have hcur : (addrAfter c.cur 64).toNat ≤ c.cur.toNat + 64 := (BitVec.toNat_add _ _).trans_le (Nat.mod_le _ _)
  have hm : c.marker ≠ true := fun hm => by simp [h.marker hm] at hr
  refine ⟨?range, ?remaining, h.trailer, fun e => absurd e hm, fun e => ?blocks⟩
  case range =>
    have := h.range
    simp only [hrem]; omega
  case remaining =>
    have := h.remaining
    simp only [hrem]; omega
  case blocks =>
    have := h.blocks e
    have := h.remaining
    simp only [hrem]; omega

/-- A tail block consumes what is left, its marker emitted now or before (41_padder.md R123, R124). -/
theorem CursorInv.tail (a n : Addr) (tr : Bool) :
    CursorInv { cur := a, rem := 0#64, lenL := n, marker := true, trailer := tr } where
  range := a.isLt.le
  remaining := Nat.zero_le _
  trailer _ := rfl
  marker _ := rfl
  blocks := Bool.noConfusion

theorem produceNextBlock_cursorInv {s : State} {b : Vector Byte 64} {c : Cursor} {d : Nat} (h : CursorInv s.cursor)
    (hb : produceNextBlock s = .block b c d) : CursorInv c := by
  rcases produceNextBlock_cases s with ⟨e, -⟩ | ⟨_, _, -, hr, e⟩ | ⟨_, tr, _, -, -, e⟩ | ⟨_, _, e⟩ | e <;>
    rw [e] at hb <;> cases hb
  · exact h.full hr
  · exact CursorInv.tail _ _ tr

/-! ### States that meet the invariant. -/

theorem busy_eq_true {s : State} : s.busy = true ↔ s.phase ≠ .idle := bne_iff_ne

theorem inOutput_eq_true {s : State} {a : Addr} :
    s.inOutput a = true ↔ s.busy = true ∧ s.dstL.toNat ≤ a.toNat ∧ a.toNat < s.dstL.toNat + 32 := by
  simp only [State.inOutput, within, Bool.and_eq_true, decide_eq_true_eq]

theorem rangeOk_eq_true {a n d : Addr} :
    rangeOk a n d = true ↔ a.toNat + n.toNat ≤ 2 ^ 64 ∧ d.toNat + 32 ≤ 2 ^ 64 := by
  simp only [rangeOk, Bool.and_eq_true, decide_eq_true_eq]

/-- While IDLE the invariant is about the memory, the error code and the list of waiting reads alone. -/
theorem engineInv_of_idle {s : State} (hp : s.phase = .idle) (hm : s.mem.wf = true)
    (he : s.status.err = true ↔ s.status.errcode ≠ .none) (hw : s.waiting = []) : EngineInv s := by
  have hb : ¬ s.busy = true := fun h => busy_eq_true.1 h hp
  refine ⟨hm, ?phase, he, ?_, ?_, ?_, ?_, ?_, ?writing, ?_, ?waiting⟩
  case phase => simp [hp]
  case writing => simp [hp]
  case waiting => simp [hw]
  all_goals exact fun h => absurd h hb

namespace EngineInv

variable {s : State} (h : EngineInv s)
include h

theorem cursor (hb : s.busy = true) : CursorInv s.cursor where
  range := (h.ranges hb).1
  remaining := h.remaining hb
  trailer := (h.flags hb).1
  marker := (h.flags hb).2
  blocks := h.blocks hb

/-- While IDLE no host read waits. -/
theorem waiting_eq_nil (hp : s.phase = .idle) : s.waiting = [] :=
  List.eq_nil_iff_forall_not_mem.2 fun a ha => busy_eq_true.1 (h.waiting a ha).1 hp

/-- With a phase that is not IDLE the engine is BUSY, and T and KW are 0 but in their own phases (44_driver.md R175 to R178). -/
theorem of_phase {p : Phase} (hp : s.phase = p) (hi : p ≠ .idle) :
    s.busy = true ∧ (p ≠ .round → s.t = 0) ∧ (p ≠ .write → s.kw = 0) := by
  subst hp
  have hb : s.busy = true := busy_eq_true.2 hi
  exact ⟨hb, h.indices hb⟩

/-- A running operation moves on to PHASE p, which leaves it BUSY, with cursor c, T and KW. -/
theorem advance (hb : s.busy = true) {c : Cursor} (hc : CursorInv c) {p : Phase}
    (hp : p ≠ .idle ∧ p ≠ .unused6 ∧ p ≠ .unused7) (hw : p = .write → c.trailer = true) {n : Fin 64} {k : Fin 32}
    (hn : p ≠ .round → n = 0) (hk : k = 0) : EngineInv { s with cursor := c, phase := p, t := n, kw := k } where
  memory := h.memory
  phase := hp.2
  errcode := h.errcode
  running _ := h.running hb
  ranges _ := ⟨hc.range, (h.ranges hb).2⟩
  remaining _ := hc.remaining
  flags _ := ⟨hc.trailer, hc.marker⟩
  blocks _ := hc.blocks
  writing := hw
  indices _ := ⟨hn, fun _ => hk⟩
  waiting a ha := by
    obtain ⟨-, h1, h2, -⟩ := h.waiting a ha
    exact ⟨busy_eq_true.2 hp.1, h1, h2, fun _ => by simpa [hk] using h1⟩

/-- An error completion of a command leaves the engine IDLE, its waiting reads answered (44_driver.md R181). -/
theorem after_completeError {t : State} {code : ErrCode} {a : Addr} (hc : code ≠ .none) (hm : t.mem = s.mem)
    (hw : t.waiting = []) : EngineInv (completeError t code a) :=
  engineInv_of_idle rfl (hm ▸ h.memory) (by simp [hc]) hw

/-! ### The micro-steps. -/

theorem after_frame (hp : s.phase = .frame) {t : State} (he : exec .frame s = .next t) : EngineInv t := by
  obtain ⟨hb, ht, hk⟩ := h.of_phase hp (by decide)
  rw [exec_frame, execFrame] at he
  cases e : produceNextBlock s <;> rw [e] at he <;> cases he
  case noMore =>
    have htr := produceNextBlock_eq_noMore.1 e
    exact h.advance hb (h.cursor hb) (by decide) (fun _ => htr) (fun _ => ht (by decide)) rfl
  case block b c d =>
    have hc := produceNextBlock_cursorInv (h.cursor hb) e
    exact { h.advance hb hc (p := .sched) (by decide) nofun (fun _ => ht (by decide)) (hk (by decide)) with }
  case busRead a d => exact h.after_completeError (by decide) rfl rfl

theorem after_sched (hp : s.phase = .sched) {t : State} (he : exec .sched s = .next t) : EngineInv t := by
  obtain ⟨hb, -, hk⟩ := h.of_phase hp (by decide)
  cases he
  exact { h.advance hb (h.cursor hb) (p := .round) (n := 0) (by decide) nofun (fun _ => rfl) (hk (by decide)) with }

theorem after_round (hp : s.phase = .round) {t : State} (he : exec .round s = .next t) : EngineInv t := by
  obtain ⟨hb, -, hk⟩ := h.of_phase hp (by decide)
  rw [exec_round, execRound] at he
  split at he <;> cases he
  · exact { h.advance hb (h.cursor hb) (p := .fold) (n := 0) (by decide) nofun (fun _ => rfl) (hk (by decide)) with }
  · rw [hp]
    exact { h.advance hb (h.cursor hb) (p := .round) (n := s.t + 1) (by decide) nofun nofun (hk (by decide)) with }

theorem after_fold (hp : s.phase = .fold) {t : State} (he : exec .fold s = .next t) : EngineInv t := by
  obtain ⟨hb, ht, hk⟩ := h.of_phase hp (by decide)
  cases he
  exact { h.advance hb (h.cursor hb) (p := .frame) (by decide) nofun (fun _ => ht (by decide)) (hk (by decide)) with }

/-- A read that still waits after WRITE is for a digest byte beyond the one written. -/
theorem waiting_after_write (hp : s.phase = .write) {a : Addr} (ha : a ∈ s.waiting.filter (· != s.digestAddr)) :
    s.dstL.toNat + s.kw.val < a.toNat ∧ a.toNat < s.dstL.toNat + 32 := by
  obtain ⟨hmem, hne⟩ := List.mem_filter.1 ha
  obtain ⟨hb, h1, h2, h3⟩ := h.waiting a hmem
  have hd : s.digestAddr.toNat = s.dstL.toNat + s.kw.val := addrAfter_toNat (by have := (h.ranges hb).2; omega)
  have hn : a.toNat ≠ s.digestAddr.toNat := fun e => bne_iff_ne.1 hne (BitVec.eq_of_toNat_eq e)
  have := h3 hp
  omega

/-- WRITE leaves the memory in canonical form, the byte stored or left. -/
theorem memory_after_store {a : Addr} {m : Memory} (hm : (∃ v, m = s.mem.write a.toNat v) ∨ m = s.mem) : m.wf = true := by
  rcases hm with ⟨v, rfl⟩ | rfl
  · exact Memory.wf_write h.memory a v
  · exact h.memory

theorem after_write (hp : s.phase = .write) {t : State} (he : exec .write s = .next t) : EngineInv t := by
  rcases write_next he with ⟨m, d, o, r, w, k, rfl, -, hk, rfl, rfl, -, hm⟩ | ⟨m, d, o, r, w, rfl, -, hk, rfl, -, hm⟩ | rfl
  · have hlt : s.kw.val + 1 < 32 := by
      have : s.kw.val ≠ 31 := fun e => hk (Fin.ext e)
      omega
    have hk1 : (s.kw + 1).val = s.kw.val + 1 := Fin.val_add_one_of_lt' hlt
    refine { h with memory := h.memory_after_store hm, indices := ?indices, waiting := ?waiting }
    case indices => exact fun hb => ⟨(h.indices hb).1, fun hne => absurd hp hne⟩
    case waiting =>
      intro a ha
      obtain ⟨h1, h2⟩ := h.waiting_after_write hp ha
      exact ⟨busy_eq_true.2 (by simp [hp]), (Nat.le_add_right _ _).trans h1.le, h2, fun _ => hk1 ▸ h1⟩
  · have hw : s.waiting.filter (· != s.digestAddr) = [] := List.eq_nil_iff_forall_not_mem.2 fun a ha => by
      have := h.waiting_after_write hp ha
      simp only [hk] at this
      omega
    exact engineInv_of_idle rfl (h.memory_after_store hm) h.errcode hw
  · exact h.after_completeError (by decide) rfl rfl

/-! ### The register accesses. -/

theorem after_acknowledge (v : Word) : EngineInv (acknowledge s v) := by
  refine { h with errcode := ?errcode, running := ?running }
  case errcode =>
    have := h.errcode
    cases hv : v.getLsbD 2 <;> simp only [acknowledge_status, Status.clear, hv]
    · simpa using this
    · simp
  case running =>
    intro hb
    obtain ⟨hd, he, ha⟩ := h.running hb
    exact ⟨by simp [Status.clear, hd], by simp [Status.clear, he], ha⟩

/-- The operation that accept_hash() begins (44_driver.md R171, R172). -/
theorem after_latchOperation (hp : s.phase = .idle) (hr : rangeOk s.src s.len s.dst = true) :
    EngineInv (latchOperation (clearCompletion s)) := by
  obtain ⟨hsrc, hdst⟩ := rangeOk_eq_true.1 hr
  have hc := CursorInv.start hsrc
  exact {
    memory := h.memory
    phase := by simp
    errcode := by simp [Status.accept]
    running := fun _ => ⟨rfl, rfl, rfl⟩
    ranges := fun _ => ⟨hc.range, hdst⟩
    remaining := fun _ => hc.remaining
    flags := fun _ => ⟨hc.trailer, hc.marker⟩
    blocks := fun _ => hc.blocks
    writing := nofun
    indices := fun _ => ⟨fun _ => rfl, fun _ => rfl⟩
    waiting := by simp [h.waiting_eq_nil hp] }

theorem after_acceptHash (hp : s.phase = .idle) : EngineInv (acceptHash s) := by
  rcases accept_cases s with ⟨hr, e⟩ | ⟨-, e⟩ <;> rw [e]
  · exact h.after_latchOperation hp hr
  · exact h.after_completeError (by decide) rfl (h.waiting_eq_nil hp)

theorem after_access {i : Instr} (ha : i.isAccess = true) {t : State} (he : exec i s = .next t) : EngineInv t := by
  rcases access_next ha he with rfl | ⟨v, rfl⟩ | ⟨-, rfl⟩ | ⟨v, -, rfl⟩ | ⟨v, -, rfl⟩ | ⟨o, rfl⟩ | ⟨-, rfl, -⟩ |
    ⟨hp, -, rfl⟩ | ⟨hp, -, rfl⟩
  · exact h
  · exact { h with }
  · exact { h with }
  · exact { h with }
  · exact h.after_acknowledge v
  · exact { h with }
  · exact { h with }
  · exact h.after_acceptHash hp
  · exact h.after_completeError (by decide) rfl (h.waiting_eq_nil hp)

/-! ### The turns that are no instruction. -/

theorem after_resetEngine : EngineInv (resetEngine s) :=
  engineInv_of_idle rfl h.memory (by rw [resetEngine_status]; decide) rfl

theorem after_hostStore (a : Addr) (v : Byte) : EngineInv (hostStore s a v) := by
  obtain ⟨m, d, ri, ro, e, hm, -⟩ := hostStore_cases s a v
  rw [e]
  exact { h with memory := h.memory_after_store (hm.imp (fun e => ⟨v, e⟩) And.right) }

theorem after_hostPost (a : Addr) (v : Byte) : EngineInv (hostPost s a v) := by
  obtain ⟨ri, e, -⟩ := hostPost_cases s a v
  rw [e]
  exact { h with }

theorem after_hostPerform : EngineInv (hostPerform s) := by
  rcases hostPerform_cases s with e | ⟨a, v, rest, -, e⟩ <;> rw [e]
  · exact h
  · exact after_hostStore (s := { s with posted := rest }) { h with } a v

theorem after_hostLoad (a : Addr) : EngineInv (hostLoad s a) := by
  rcases hostLoad_cases s a with ⟨b, d, e⟩ | ⟨e, ho, hf⟩ <;> rw [e]
  · exact { h with }
  · refine { h with waiting := fun b hb => ?waiting }
    rcases List.mem_append.1 hb with hb | hb
    · exact h.waiting b hb
    · obtain rfl := List.mem_singleton.1 hb
      obtain ⟨hbusy, h1, h2⟩ := inOutput_eq_true.1 ho
      have hw : s.phase ≠ .write := fun hp => by simp [State.digestFinal, hp] at hf
      exact ⟨hbusy, h1, h2, fun hp => absurd hp hw⟩

theorem after_moved {t : State} (hf : fetch s = .moved t) : EngineInv t := by
  obtain ⟨x, rest, -, hx⟩ := fetch_moved hf
  have hr : EngineInv { s with inputs := rest } := { h with }
  rcases hx with ⟨-, rfl⟩ | ⟨a, v, -, rfl⟩ | ⟨a, v, -, rfl⟩ | ⟨-, rfl⟩ | ⟨a, -, rfl⟩
  · exact hr.after_resetEngine
  · exact hr.after_hostStore a v
  · exact hr.after_hostPost a v
  · exact hr.after_hostPerform
  · exact hr.after_hostLoad a

end EngineInv

end Sys2Proof.Safety

namespace Sys2Proof.Machine

open Sys2Proof.Safety

/-- Settles O44: by the kind of turn, and of the instructions by the phase that selects them. -/
theorem stepKeepsEngineInvariant : Obligations.StepKeepsEngineInvariant := by
  intro s t h hs
  rcases step_next hs with ⟨i, u, hf, he⟩ | hm
  · obtain ⟨r, rfl, hi⟩ := run_cases hf
    have hr : EngineInv { s with inputs := r } := { h with }
    rcases hi with ha | ⟨-, rfl⟩ | ⟨hp, rfl⟩ | ⟨hp, rfl⟩ | ⟨hp, rfl⟩ | ⟨hp, rfl⟩ | ⟨hp, rfl⟩ | rfl | rfl
    · exact hr.after_access ha he
    · cases he; exact hr
    · exact hr.after_frame hp he
    · exact hr.after_sched hp he
    · exact hr.after_round hp he
    · exact hr.after_fold hp he
    · exact hr.after_write hp he
    · cases he
    · cases he
  · exact h.after_moved hm

end Sys2Proof.Machine
end

section
/-! Statements of 43_compressor.md: the round and its constants, the 64 rounds of a block, and the writers of the hash
state. -/

namespace Sys2Proof.Machine

open Sys2Proof.Safety

/-! ### One round. -/

/-- ROUND at T = 63 ends the rounds (44_driver.md R176). -/
theorem exec_round_last {s : State} (h : s.t = 63) : exec .round s =
    .next { s with wr := compressRound s.wr (kTable.get s.t) (s.w.get s.t), t := 0, phase := .fold } :=
  if_pos h

/-- ROUND below T = 63 goes on to the next round (44_driver.md R176). -/
theorem exec_round_next {s : State} (h : s.t ≠ 63) : exec .round s =
    .next { s with wr := compressRound s.wr (kTable.get s.t) (s.w.get s.t), t := s.t + 1 } :=
  if_neg h

theorem bigS0_eq_rotateRight (a : Word) : bigS0 a = a.rotateRight 2 ^^^ a.rotateRight 13 ^^^ a.rotateRight 22 := by
  simp only [bigS0, rotr_eq_rotateRight]

theorem bigS1_eq_rotateRight (e : Word) : bigS1 e = e.rotateRight 6 ^^^ e.rotateRight 11 ^^^ e.rotateRight 25 := by
  simp only [bigS1, rotr_eq_rotateRight]

/-- Settles O32: the micro-step is one round, whose S0 and S1 are exclusive ors of rotations; T decides how it ends. -/
theorem roundUpdatesWorkingRegisters : Obligations.RoundUpdatesWorkingRegisters := by
  intro s
  simp only [← bigS0_eq_rotateRight, ← bigS1_eq_rotateRight]
  exact ⟨exec_round_last, exec_round_next⟩

/-! ### The 64 rounds of a block. -/

/-- The first k rounds over one schedule, in order (R156). -/
def firstRounds (k : Nat) (w : Vector Word 64) (wr : Vector Word 8) : Vector Word 8 :=
  ((List.finRange 64).take k).foldl (fun r t => compressRound r (kTable.get t) (w.get t)) wr

theorem firstRounds_zero (w : Vector Word 64) (wr : Vector Word 8) : firstRounds 0 w wr = wr := rfl

theorem firstRounds_all (w : Vector Word 64) (wr : Vector Word 8) : firstRounds 64 w wr = allRounds w wr := by
  rw [firstRounds, List.take_of_length_le (by rw [List.length_finRange]), allRounds]

theorem firstRounds_succ {k : Nat} (hk : k < 64) (w : Vector Word 64) (wr : Vector Word 8) :
    firstRounds (k + 1) w wr = compressRound (firstRounds k w wr) (kTable.get ⟨k, hk⟩) (w.get ⟨k, hk⟩) := by
  have hl : k < (List.finRange 64).length := by rwa [List.length_finRange]
  rw [firstRounds, List.take_succ_eq_append_getElem hl, List.foldl_concat, List.getElem_finRange]
  rfl

/-- The state in which T = k, of the rounds that began in s. -/
def State.inRound (s : State) (k : Nat) (hk : k < 64) : State := { s with wr := firstRounds k s.w s.wr, t := ⟨k, hk⟩ }

section
variable {s : State} (hi : s.inputs = []) (hp : s.phase = .round)
include hi hp

/-- With no turn listed ROUND has every step of the rounds. -/
theorem step_inRound {k : Nat} (hk : k < 64) : step (s.inRound k hk) = exec .round (s.inRound k hk) := by
  rw [step_no_input (s := s.inRound k hk) hi, show (s.inRound k hk).phase = .round from hp]
  rfl

theorem step_inRound_next {k : Nat} (hk : k + 1 < 64) :
    step (s.inRound k (Nat.lt_of_succ_lt hk)) = .next (s.inRound (k + 1) hk) := by
  have hlast : (⟨k, Nat.lt_of_succ_lt hk⟩ : Fin 64) ≠ 63 := Fin.ne_of_val_ne (Nat.ne_of_lt (Nat.lt_of_succ_lt_succ hk))
  have hnext : (⟨k, Nat.lt_of_succ_lt hk⟩ : Fin 64) + 1 = ⟨k + 1, hk⟩ := Fin.ext (Nat.mod_eq_of_lt hk)
  rw [step_inRound hi hp, exec_round_next hlast]
  simp only [State.inRound, hnext, firstRounds_succ (Nat.lt_of_succ_lt hk)]

theorem step_inRound_last :
    step (s.inRound 63 (by decide)) = .next { s with wr := allRounds s.w s.wr, t := 0, phase := .fold } := by
  rw [step_inRound hi hp, exec_round_last rfl, ← firstRounds_all, firstRounds_succ (by decide)]
  rfl

/-- From T = 0 on, k micro-steps run the first k rounds. -/
theorem runFor_inRound (ht : s.t = 0) (k : Nat) (hk : k < 64) : runFor k s = .next (s.inRound k hk) := by
  induction k with
  | zero => rw [State.inRound, firstRounds_zero, Fin.mk_zero', ← ht]; rfl
  | succ k ih =>
    rw [runFor_add k 1 (ih (Nat.lt_of_succ_lt hk)), runFor_succ (step_inRound_next hi hp hk) 0]
    rfl

end

/-- Settles O55: the first 63 micro-steps stay in ROUND, by induction on T, and the 64th ends the rounds. -/
theorem blockTakesSixtyFourRounds : Obligations.BlockTakesSixtyFourRounds := by
  intro s hi hp ht
  refine ⟨fun k hk => ⟨_, runFor_inRound hi hp ht k hk, hp, rfl⟩, ?_⟩
  rw [runFor_add 63 1 (runFor_inRound hi hp ht 63 (by decide)), runFor_succ (step_inRound_last hi hp) 0]
  rfl

/-! ### The writers of H. -/

theorem acceptHash_h (s : State) : (acceptHash s).h = ivTable ∨ (acceptHash s).h = s.h := by
  rcases accept_cases s with ⟨-, e⟩ | ⟨-, e⟩
  · exact .inl (by rw [e, latchOperation_h])
  · exact .inr (by rw [e, completeError_h, clearCompletion_h])

/-- A register access that changes H is a HASH command while IDLE (44_driver.md R171). -/
theorem access_h_changed {i : Instr} {s t : State} (ha : i.isAccess = true) (h : exec i s = .next t) (hne : t.h ≠ s.h) :
    s.phase = .idle ∧ ∃ g, i = .cmdHash g := by
  rcases access_next ha h with rfl | ⟨v, rfl⟩ | ⟨-, rfl⟩ | ⟨v, -, rfl⟩ | ⟨v, -, rfl⟩ | ⟨o, rfl⟩ | ⟨-, rfl, -⟩ |
    ⟨hp, hg, -⟩ | ⟨-, -, rfl⟩
  · exact absurd rfl hne
  · exact absurd (answer_h s v) hne
  · exact absurd (answerDraw_h s) hne
  · exact absurd rfl hne
  · exact absurd (acknowledge_h s v) hne
  · exact absurd rfl hne
  · exact absurd (overrun_h s) hne
  · exact ⟨hp, hg⟩
  · exact absurd (completeError_h s _ _) hne

theorem frame_keeps_h {s t : State} (h : exec .frame s = .next t) : t.h = s.h := by
  rcases frame_next h with ⟨rfl, -⟩ | ⟨b, c, d, rfl, -⟩ | ⟨a, d, rfl⟩
  · rfl
  · rfl
  · rw [completeError_h, afterRefusedRead_h, answerWaiting_h]

theorem round_keeps_h {s t : State} (h : exec .round s = .next t) : t.h = s.h := by
  by_cases ht : s.t = 63
  · rw [exec_round_last ht] at h; cases h; rfl
  · rw [exec_round_next ht] at h; cases h; rfl

theorem write_keeps_h {s t : State} (h : exec .write s = .next t) : t.h = s.h := by
  rcases write_next h with ⟨m, d, o, q, w, k, rfl, -⟩ | ⟨m, d, o, q, w, rfl, -⟩ | rfl
  · rfl
  · rw [completeOk_h]
  · rw [completeError_h, answerWaiting_h]

/-- An instruction that changes H is FOLD or a HASH command while IDLE. -/
theorem exec_h_changed {i : Instr} {s t : State} (h : exec i s = .next t) (hne : t.h ≠ s.h) :
    i = .fold ∨ s.phase = .idle ∧ ∃ g, i = .cmdHash g := by
  cases i with
  | idle => cases h; exact absurd rfl hne
  | frame => exact absurd (frame_keeps_h h) hne
  | sched => cases h; exact absurd rfl hne
  | round => exact absurd (round_keeps_h h) hne
  | fold => exact .inl rfl
  | write => exact absurd (write_keeps_h h) hne
  | phaseRsvd6 => cases h
  | phaseRsvd7 => cases h
  | _ => exact .inr (access_h_changed rfl h hne)

theorem hostStore_h (s : State) (a : Addr) (v : Byte) : (hostStore s a v).h = s.h := by
  obtain ⟨m, d, ri, ro, e, -⟩ := hostStore_cases s a v
  rw [e]

theorem hostPost_h (s : State) (a : Addr) (v : Byte) : (hostPost s a v).h = s.h := by
  obtain ⟨ri, e, -⟩ := hostPost_cases s a v
  rw [e]

theorem hostPerform_h (s : State) : (hostPerform s).h = s.h := by
  rcases hostPerform_cases s with e | ⟨a, v, rest, -, e⟩
  · rw [e]
  · rw [e, hostStore_h]

theorem hostLoad_h (s : State) (a : Addr) : (hostLoad s a).h = s.h := by
  rcases hostLoad_cases s a with ⟨b, d, e⟩ | ⟨e, -⟩
  · rw [e]
  · rw [e, waitByte_h]

/-- Of the turns that are no instruction only a reset changes H. -/
theorem moved_h_changed {s t : State} (h : fetch s = .moved t) (hne : t.h ≠ s.h) : s.inputs.head? = some .reset := by
  obtain ⟨x, rest, hi, hx⟩ := fetch_moved h
  rcases hx with ⟨rfl, -⟩ | ⟨a, v, -, rfl⟩ | ⟨a, v, -, rfl⟩ | ⟨-, rfl⟩ | ⟨a, -, rfl⟩
  · rw [hi, List.head?_cons]
  · exact absurd (hostStore_h _ a v) hne
  · exact absurd (hostPost_h _ a v) hne
  · exact absurd (hostPerform_h _) hne
  · exact absurd (hostLoad_h _ a) hne

/-- Settles O45: by what the fetch gives, an instruction or a turn that is none. -/
theorem hashStateWriters : Obligations.HashStateWriters := by
  intro s t h hne
  rcases step_next h with ⟨i, u, hf, he⟩ | hm
  · obtain ⟨r, rfl, -⟩ := fetch_run hf
    rcases exec_h_changed he hne with rfl | ⟨hp, g, rfl⟩
    · exact .inl ⟨_, hf⟩
    · exact .inr (.inl ⟨hp, g, _, hf⟩)
  · exact .inr (.inr (moved_h_changed hm hne))

/-! ### The round constants. -/

/-- The primes 2 to 311 (R150). -/
theorem firstPrimes_eq : firstPrimes =
    [2, 3, 5, 7, 11, 13, 17, 19, 23, 29, 31, 37, 41, 43, 47, 53, 59, 61, 67, 71, 73, 79, 83, 89, 97, 101, 103, 107, 109, 113, 127,
      131, 137, 139, 149, 151, 157, 163, 167, 173, 179, 181, 191, 193, 197, 199, 211, 223, 227, 229, 233, 239, 241, 251, 257, 263,
      269, 271, 277, 281, 283, 293, 307, 311] := by
  decide +kernel

/-- The integer part of the cube root of p, then x as the 32 bits below it: a candidate for the integer cube root of
p * 2^96 (R150). -/
def scaledCubeRoot (p : Nat) (x : Word) : Nat := Nat.nthRoot 3 p * 2 ^ 32 + x.toNat

theorem scaledCubeRoot_mod (p : Nat) (x : Word) : x.toNat = scaledCubeRoot p x % 2 ^ 32 := by
  rw [scaledCubeRoot, Nat.mul_add_mod_self_right, Nat.mod_eq_of_lt x.isLt]

/-- n is the integer part of the cube root of m. -/
abbrev IsCubeRoot (n m : Nat) : Prop := n ^ 3 ≤ m ∧ m < (n + 1) ^ 3

/-- Every constant is the fraction of its prime's cube root (R150). -/
theorem kTable_isCubeRoot :
    ∀ t : Fin 64, ∃ p ∈ firstPrimes[t.val]?, IsCubeRoot (scaledCubeRoot p (kTable.get t)) (p * 2 ^ 96) := by
  rw [firstPrimes_eq]
  decide

/-- Settles O59: the table row by row, and for each constant the integer cube root made of the integer part of its prime's cube
root and the constant itself. -/
theorem roundConstantsAreTheTable : Obligations.RoundConstantsAreTheTable := by
  refine ⟨by decide, fun t => ?_⟩
  obtain ⟨p, hp, hle, hlt⟩ := kTable_isCubeRoot t
  exact ⟨p, _, hp, hle, hlt, scaledCubeRoot_mod p _⟩

end Sys2Proof.Machine
end

section
/-! Statements of 44_driver.md: the acceptance of a HASH, the micro-steps the engine takes on its own, and a whole operation.
What one micro-step gives is said once for each phase; an operation is a chain of such equations. -/

namespace Sys2Proof.Machine

open Sys2Proof.Safety

/-! ### The engine's turn. -/

theorem step_of_phase {s : State} {p : Phase} (hi : s.inputs = []) (hp : s.phase = p) :
    step s = exec (decodePhase (phaseCode p)) s :=
  hp ▸ step_no_input hi

/-- Settles O6: with no turn listed the step is the micro-step that the code of PHASE decodes to. -/
theorem engineTurnRunsThePhase : Obligations.EngineTurnRunsThePhase :=
  fun _ hi => ⟨step_of_phase hi, step_of_phase hi, step_of_phase hi, step_of_phase hi, step_of_phase hi, step_of_phase hi,
    fun hp => step_reserved (phaseReserved_eq_true.2 hp)⟩

/-- Settles O25: this is the meaning of IDLE. -/
theorem idleTakesNoStep : Obligations.IdleTakesNoStep := fun _ => rfl

/-! ### The acceptance of a HASH. -/

theorem exec_cmdHash_idle {s : State} (hp : s.phase = .idle) (g : BitVec 24) :
    exec (.cmdHash g) s = .next (acceptHash s) := by
  simp only [exec_cmdHash, execCmdHash, State.busy, hp, bne_self_eq_false, Bool.false_eq_true, if_false]

theorem acceptHash_fits {s : State} (hsrc : s.src.toNat + s.len.toNat ≤ 2 ^ 64) (hdst : s.dst.toNat + 32 ≤ 2 ^ 64) :
    acceptHash s = latchOperation (clearCompletion s) :=
  if_pos (rangeOk_eq_true.2 ⟨hsrc, hdst⟩)

theorem acceptHash_range {s : State} (h : 2 ^ 64 < s.src.toNat + s.len.toNat ∨ 2 ^ 64 < s.dst.toNat + 32) :
    acceptHash s = completeError (clearCompletion s) .range 0#64 := by
  refine if_neg fun hr => ?_
  obtain ⟨hsrc, hdst⟩ := rangeOk_eq_true.1 hr
  omega

/-- Settles O22: by the range check, whose two ends are the latching of the operation and the completion with RANGE. -/
theorem hashAcceptance : Obligations.HashAcceptance := by
  intro s g hp
  rw [exec_cmdHash_idle hp]
  refine ⟨fun ⟨hsrc, hdst⟩ => ⟨(latchOperation (clearCompletion s)).racedIn, ?fits⟩, fun h => ?range⟩
  case fits => rw [acceptHash_fits hsrc hdst]; rfl
  case range => rw [acceptHash_range h]; rfl

/-! ### SCHED and FOLD. -/

theorem exec_sched_eq (s : State) :
    exec .sched s = .next { s with w := expand s.blk, wr := s.h, t := 0, phase := .round } := rfl

theorem exec_fold_eq (s : State) : exec .fold s = .next { s with h := foldWords s.h s.wr, phase := .frame } := rfl

/-- Settles O33: the fold adds word by word. -/
theorem foldAddsWorkingRegisters : Obligations.FoldAddsWorkingRegisters :=
  fun s => ⟨foldWords s.h s.wr, exec_fold_eq s, foldWords_get s.h s.wr⟩

theorem expand_getElem (blk : Vector Byte 64) {i : Nat} (hi : i < 64) :
    (expand blk)[i] = (deriveWords 48 (loadedWords blk)).getD i 0#32 :=
  (Vector.get_eq_getElem _ ⟨i, hi⟩).symm.trans (expand_get blk ⟨i, hi⟩)

theorem loadedWords_length (blk : Vector Byte 64) : (loadedWords blk).length = 16 := List.length_ofFn

/-- The first sixteen words are those loaded from the block (42_scheduler.md R141). -/
theorem expand_loaded (blk : Vector Byte 64) (i : Fin 16) : (expand blk)[i.val] = loadedWord blk i := by
  obtain ⟨ws, hws⟩ := deriveWords_prefix 48 (loadedWords blk)
  have hi : i.val < (loadedWords blk).length := by rw [loadedWords_length]; exact i.isLt
  rw [expand_getElem, ← hws, List.getD_append _ _ _ _ hi, List.getD_eq_getElem _ _ hi]
  exact List.getElem_ofFn _

/-- The loaded word as a number: the four bytes from 4i on, the first the most significant (42_scheduler.md R141). -/
theorem loadedWord_toNat (blk : Vector Byte 64) {i : Nat} (hi : i < 16) :
    (loadedWord blk ⟨i, hi⟩).toNat = blk[4 * i].toNat * 2 ^ 24 + blk[4 * i + 1].toNat * 2 ^ 16 +
      blk[4 * i + 2].toNat * 2 ^ 8 + blk[4 * i + 3].toNat := by
  have get {j : Nat} (hj : j < 64) : blk.get (Fin.ofNat 64 j) = blk[j] := by
    simp only [Vector.get_eq_getElem, Fin.val_ofNat, Nat.mod_eq_of_lt hj]
  rw [loadedWord, be32_toNat, get, get, get, get]

/-- The word at index i of the others is the recurrence over words of the schedule (42_scheduler.md R142). -/
theorem expand_derived (blk : Vector Byte 64) {i : Nat} (hi : i < 48) :
    (expand blk)[i + 16] = (expand blk)[i] + s0 (expand blk)[i + 1] + (expand blk)[i + 9] + s1 (expand blk)[i + 14] := by
  have hlen := deriveWords_length 48 (loadedWords blk)
  have hat := deriveWords_at 48 (loadedWords blk) i hi
  rw [loadedWords_length] at hlen hat
  simp only [expand_getElem]
  generalize deriveWords 48 (loadedWords blk) = ws at hlen hat
  have htake : (ws.take (16 + i)).length = 16 + i := by rw [List.length_take]; omega
  have before {j : Nat} (hj : j < 16 + i) : (ws.take (16 + i)).getD j 0#32 = ws.getD j 0#32 := by
    simp only [List.getD_eq_getElem?_getD, List.getElem?_take_of_lt hj]
  rw [Nat.add_comm i 16, List.getD_eq_getElem?_getD, hat, Option.getD_some, nextWord, htake,
    before (by omega), before (by omega), before (by omega), before (by omega)]
  congr <;> omega

/-- Settles O31: the words loaded, as numbers, and the recurrence of the others, with its two mixing functions written out. -/
theorem schedComputesTheSchedule : Obligations.SchedComputesTheSchedule := by
  intro s
  refine ⟨expand s.blk, exec_sched_eq s, fun i hi => ?loaded, fun i hi => ?derived⟩
  case loaded => rw [expand_loaded s.blk ⟨i, hi⟩, loadedWord_toNat]
  case derived => rw [expand_derived s.blk hi]; simp only [s0, s1, rotr_eq_rotateRight]

/-! ### WRITE where no host agent wrote the digest byte. -/

/-- An admitted WRITE that is no race: the state after it (44_driver.md R178 to R180). -/
theorem exec_write_plain {s : State} (hw : s.admitW s.digestAddr = true) (hr : s.digestAddr ∉ s.racedOut) :
    exec .write s = .next { s with
      mem := s.mem.write s.digestAddr.toNat (digestByte s.h s.kw)
      overwritten := (s.digestAddr, s.mem.read? s.digestAddr.toNat) :: s.overwritten
      mdata := if s.digestAddr ∈ s.waiting then [(s.digestAddr,
          ({ s with mem := s.mem.write s.digestAddr.toNat (digestByte s.h s.kw) } : State).byteAt s.digestAddr)]
        else s.mdata
      waiting := s.waiting.filter (· ≠ s.digestAddr)
      kw := if s.kw = 31 then 0 else s.kw + 1
      phase := if s.kw = 31 then .idle else s.phase
      status := if s.kw = 31 then { s.status with done := true } else s.status } := by
  have hf : s.waiting.filter (· != s.digestAddr) = s.waiting.filter (· ≠ s.digestAddr) :=
    List.filter_congr fun x _ => by rw [Bool.eq_iff_iff, bne_iff_ne, decide_eq_true_eq]
  simp only [exec_write, execWrite, hw, engineStore_plain _ hr, State.answerWritten, hf, if_true, List.contains_iff_mem]
  by_cases hk : s.kw = 31
  · simp only [if_pos hk, completeOk]; rfl
  · simp only [if_neg hk]; rfl

/-- A refused WRITE ends the operation with BUS_WRITE (44_driver.md R181). -/
theorem exec_write_refused {s : State} (hw : s.admitW s.digestAddr = false) :
    exec .write s = .next (completeError s.answerWaiting .busWrite s.digestAddr) := by
  simp only [exec_write, execWrite, hw, Bool.false_eq_true, if_false]

/-- Settles O34: the two meanings of WRITE, and what its one store does to the bytes of memory. -/
theorem writeStoresOneDigestByte : Obligations.WriteStoresOneDigestByte := by
  intro s hr
  refine ⟨fun hw => ⟨_, exec_write_plain hw hr, fun a ha => byteAt_write_other s _ ha, ?byte⟩,
    fun hw => ⟨_, exec_write_refused hw, rfl, rfl, rfl, rfl, rfl⟩⟩
  case byte => exact (congrArg BitVec.toNat (byteAt_write_same s s.digestAddr _)).trans (digestByte_toNat s.h s.kw)

/-! ### Every proper turn answers. -/

theorem produceNextBlock_ne_effect {s : State} (h : s.platform.readEffects = []) : produceNextBlock s ≠ .effect := by
  intro he
  simp only [produceNextBlock] at he
  split at he
  · cases he
  · split at he <;> split at he
    case h_3 hrun => exact readRun_no_effect s h _ _ _ _ hrun
    case h_3 hrun => exact readRun_no_effect s h _ _ _ _ hrun
    all_goals cases he

theorem exec_frame_answers {s : State} (h : s.platform.readEffects = []) : ∃ t, exec .frame s = .next t := by
  rw [exec_frame, execFrame]
  cases e : produceNextBlock s with
  | effect => exact absurd e (produceNextBlock_ne_effect h)
  | _ => exact ⟨_, rfl⟩

theorem exec_round_answers (s : State) : ∃ t, exec .round s = .next t := by
  by_cases ht : s.t = 63
  · exact ⟨_, exec_round_last ht⟩
  · exact ⟨_, exec_round_next ht⟩

theorem exec_write_answers (s : State) : ∃ t, exec .write s = .next t := by
  by_cases hw : s.admitW s.digestAddr = true
  · obtain ⟨m, d, e, -⟩ := exec_write_admitted hw
    exact ⟨_, e⟩
  · exact ⟨_, exec_write_refused (Bool.not_eq_true _ ▸ hw)⟩

/-- In a legal phase, over ordinary memory, the micro-step answers. -/
theorem exec_microStep_answers {s : State} (h : s.platform.readEffects = []) (h6 : s.phase ≠ .unused6)
    (h7 : s.phase ≠ .unused7) : ∃ t, exec (decodePhase (phaseCode s.phase)) s = .next t := by
  cases hp : s.phase with
  | frame => exact exec_frame_answers h
  | round => exact exec_round_answers s
  | write => exact exec_write_answers s
  | unused6 => exact absurd hp h6
  | unused7 => exact absurd hp h7
  | _ => exact ⟨_, rfl⟩

theorem exec_decodeRead_answers (x : Slot) (s : State) : ∃ t, exec (decodeRead x) s = .next t := by
  cases x with
  | hash i =>
    rw [decodeRead, exec_rdHash, execRdHash]
    split <;> exact ⟨_, rfl⟩
  | _ => exact ⟨_, rfl⟩

theorem exec_decodeCommand_answers (d : Word) (s : State) : ∃ t, exec (decodeCommand d) s = .next t := by
  simp only [decodeCommand]
  split
  · exact ⟨_, rfl⟩
  · split
    · rw [exec_cmdHash, execCmdHash]
      split <;> exact ⟨_, rfl⟩
    · rw [exec_cmdIllegal, execCmdIllegal]
      split <;> exact ⟨_, rfl⟩

theorem exec_decodeWrite_answers (x : Slot) (d : Word) (s : State) : ∃ t, exec (decodeWrite x d) s = .next t := by
  cases x with
  | cmd => exact exec_decodeCommand_answers d s
  | _ => exact ⟨_, rfl⟩

/-- A proper transaction word is an aligned write, or an aligned read without data, and these answer in every state. -/
theorem properWord_answers {w : BitVec 41} (hw : properWord w = true) :
    ∃ i, decode (.bus w) = .ok i ∧ ∀ s, ∃ t, exec i s = .next t := by
  simp only [decode_bus_eq_ok]
  induction w using busWord_cases with
  | write x d => exact ⟨_, decodeWord_write x d, exec_decodeWrite_answers x d⟩
  | read x => exact ⟨_, decodeWord_read x, exec_decodeRead_answers x⟩
  | readData x d hd => simp [properWord, wordIsWrite_busWord, wordData_busWord, hd] at hw
  | _ => simp [properWord, wordLane_busWord] at hw

theorem step_proper_access {s : State} {w : BitVec 41} {rest : List Input} (hw : properWord w = true)
    (hf : fetch s = fetchInput (.access w) { s with inputs := rest }) : ∃ t, step s = .next t := by
  obtain ⟨i, hd, hi⟩ := properWord_answers hw
  rw [step_of_fetch_run (hf.trans (fetchCode_ok hd _))]
  exact hi _

/-- Settles O10: by whose turn it is; a listed turn that is no instruction answers whatever it is. -/
theorem properTurnAnswersNext : Obligations.ProperTurnAnswersNext := by
  rintro s ⟨he, h6, h7, hturn⟩
  cases hi : s.inputs with
  | nil =>
    rw [step_no_input hi]
    exact exec_microStep_answers he h6 h7
  | cons x rest =>
    have hf := fetch_input hi ((phaseReserved_eq_false s).2 ⟨h6, h7⟩)
    rw [hi, List.head?_cons] at hturn
    cases x with
    | access w => exact step_proper_access hturn hf
    | bus addr bits wr v =>
      obtain ⟨w, htw, hw⟩ := hturn
      exact step_proper_access hw (hf.trans (fetchInput_bus htw))
    | engine =>
      rw [step_of_fetch_run (hf.trans (fetchMicroStep_ok (decode_phaseCode s.phase)))]
      exact exec_microStep_answers (s := { s with inputs := rest }) he h6 h7
    | _ => exact ⟨_, step_of_moved h6 h7 hi rfl⟩

/-! ### What a micro-step leaves unchanged. -/

/-- The states a micro-step of s can leave: a move of the datapath, an admitted digest byte, or one of the two bus errors. -/
inductive MicroStepEnd (s : State) : Instr → State → Prop where
  | moved (i : Instr) (h wr : Vector Word 8) (w : Vector Word 64) (b : Vector Byte 64) (c : Cursor) (p : Phase) (n : Fin 64)
      (k : Fin 32) (d : Nat) (hl : c.lenL = s.cursor.lenL) :
      MicroStepEnd s i { s with h := h, wr := wr, w := w, blk := b, cursor := c, phase := p, t := n, kw := k, draws := d }
  | stored (m : Memory) (d : Nat) (o : List (Addr × Option Byte)) (r : List (Addr × Byte)) (k : Fin 32) (p : Phase) (b : Bool)
      (hr : s.waiting = [] → r = s.mdata) :
      MicroStepEnd s .write { s with
        mem := m, draws := d, overwritten := o, mdata := r, waiting := s.waiting.filter (· != s.digestAddr), kw := k, phase := p
        status := { s.status with done := b } }
  | busRead (a : Addr) (d : Nat) :
      MicroStepEnd s .frame (completeError (afterRefusedRead s.answerWaiting d) .busRead a)
  | busWrite : MicroStepEnd s .write (completeError s.answerWaiting .busWrite s.digestAddr)

theorem microStep_end {i : Instr} {s t : State} (hi : i.isAccess = false) (h : exec i s = .next t) : MicroStepEnd s i t := by
  cases i with
  | idle => cases h; exact .moved _ _ _ _ _ _ _ _ _ _ rfl
  | frame =>
    rcases frame_next h with ⟨rfl, -⟩ | ⟨b, c, d, rfl, hc⟩ | ⟨a, d, rfl⟩
    · exact .moved _ _ _ _ _ _ _ _ _ _ rfl
    · exact .moved _ _ _ _ _ _ _ _ _ _ hc
    · exact .busRead a d
  | sched => cases h; exact .moved _ _ _ _ _ _ _ _ _ _ rfl
  | round =>
    by_cases ht : s.t = 63
    · rw [exec_round_last ht] at h; cases h; exact .moved _ _ _ _ _ _ _ _ _ _ rfl
    · rw [exec_round_next ht] at h; cases h; exact .moved _ _ _ _ _ _ _ _ _ _ rfl
  | fold => cases h; exact .moved _ _ _ _ _ _ _ _ _ _ rfl
  | write =>
    rcases write_next h with ⟨m, d, o, r, w, k, rfl, -, -, -, rfl, hr, -⟩ | ⟨m, d, o, r, w, rfl, -, -, rfl, hr, -⟩ | rfl
    · exact .stored m d o r k s.phase s.status.done hr
    · exact .stored m d o r 0 .idle true hr
    · exact .busWrite
  | phaseRsvd6 => cases h
  | phaseRsvd7 => cases h
  | _ => cases hi

theorem answerWaiting_mdata_of_nil {s : State} (h : s.waiting = []) : s.answerWaiting.mdata = s.mdata := by
  rw [answerWaiting_mdata, h, List.isEmpty_nil, if_pos rfl]

/-- Settles O50: the four ends of a micro-step, and for the bytes of memory that only WRITE writes them. -/
theorem microStepFrame : Obligations.MicroStepFrame := by
  intro i s t hi h
  have hbytes : i ≠ .write → ∀ a, t.byteAt a = s.byteAt a := fun hw => byteAt_of_mem_eq (exec_keeps_mem hw h)
  cases microStep_end hi h with
  | moved _ _ _ _ _ c _ _ _ _ hl =>
    exact ⟨rfl, rfl, rfl, rfl, rfl, rfl, rfl, rfl, fun _ => rfl, fun _ ha => ha, fun _ _ => ⟨rfl, rfl⟩,
      fun _ => hl, hbytes⟩
  | stored m d o r k p b hr =>
    exact ⟨rfl, rfl, rfl, rfl, rfl, rfl, rfl, rfl, hr, fun _ ha => List.mem_of_mem_filter ha, fun hw => absurd rfl hw,
      fun _ => rfl, hbytes⟩
  | busRead a d =>
    exact ⟨rfl, rfl, rfl, rfl, rfl, rfl, rfl, rfl, answerWaiting_mdata_of_nil, nofun, fun _ hf => absurd ⟨rfl, rfl⟩ hf,
      fun hf => absurd ⟨rfl, rfl⟩ hf, hbytes⟩
  | busWrite =>
    exact ⟨rfl, rfl, rfl, rfl, rfl, rfl, rfl, rfl, answerWaiting_mdata_of_nil, nofun, fun hw => absurd rfl hw,
      fun _ => rfl, hbytes⟩

/-! ### Runs of micro-steps. -/

section
variable {s u : State} (hi : s.inputs = [])
include hi

/-- The first of several micro-steps is the one PHASE names. -/
theorem runFor_exec {p : Phase} (hp : s.phase = p) (h : exec (decodePhase (phaseCode p)) s = .next u) (k : Nat) :
    runFor (k + 1) s = runFor k u :=
  runFor_succ ((step_of_phase hi hp).trans h) k

theorem step_keeps_no_input (h : step s = .next u) : u.inputs = [] := by
  have hm : (decodePhase (phaseCode s.phase)).isAccess = false := by cases s.phase <;> rfl
  rw [step_no_input hi] at h
  obtain ⟨-, -, -, -, -, hu, -⟩ := microStepFrame _ s u hm h
  exact hu.trans hi

theorem runFor_idle (hp : s.phase = .idle) (k : Nat) : runFor k s = .next s := by
  induction k with
  | zero => rfl
  | succ k ih => rw [runFor_exec hi hp rfl, ih]

end

/-- Undisturbed, an engine that is BUSY after n micro-steps was so after every smaller number: once IDLE it stays so. -/
theorem runFor_busy_before {s u : State} {n k : Nat} (hi : s.inputs = []) (h : runFor n s = .next u)
    (hu : u.phase ≠ .idle) (hk : k ≤ n) : ∃ v, runFor k s = .next v ∧ v.phase ≠ .idle := by
  induction n generalizing s k with
  | zero => exact ⟨u, Nat.le_zero.1 hk ▸ h, hu⟩
  | succ n ih =>
    cases k with
    | zero =>
      refine ⟨s, rfl, fun hp => ?_⟩
      rw [runFor_idle hi hp] at h
      cases h
      exact hu hp
    | succ k =>
      cases e : step s with
      | next v =>
        rw [runFor_succ e] at h ⊢
        exact ih (step_keeps_no_input hi e) h (Nat.le_of_succ_le_succ hk)
      | fault r => cases r
      | refused r => rw [runFor_refused e] at h; cases h

/-! ### One block. -/

/-- From a FRAME that produces a block, through SCHED, the 64 rounds and FOLD, back to FRAME (44_driver.md R174 to R177). -/
theorem runFor_block {s : State} {b : Vector Byte 64} {c : Cursor} {d : Nat} (hi : s.inputs = []) (hp : s.phase = .frame)
    (hb : produceNextBlock s = .block b c d) :
    runFor 67 s = .next { s with
      blk := b, cursor := c, draws := d, w := expand b, wr := allRounds (expand b) s.h, t := 0, h := compressBlock s.h b } := by
  calc runFor 67 s
    _ = runFor 66 _ := runFor_exec hi hp (exec_frame_block hb) 66
    _ = runFor 65 _ := runFor_exec (p := .sched) (by exact hi) rfl (exec_sched_eq _) 65
    _ = runFor 1 _ := runFor_add 64 1 (blockTakesSixtyFourRounds _ (by exact hi) rfl rfl).2
    _ = runFor 0 _ := runFor_exec (p := .fold) (by exact hi) rfl (exec_fold_eq _) 0
    _ = _ := by rw [hp]; rfl

/-- Settles O56: the state after the 67 micro-steps is known whole. -/
theorem blockFoldsItsCompression : Obligations.BlockFoldsItsCompression :=
  fun _ _ _ _ hi hp hb => ⟨_, runFor_block hi hp hb, hp, rfl, rfl, rfl, rfl, rfl, rfl, hi⟩

/-! ### The 32 writes of the digest. -/

/-- The state v has the first k digest bytes of s at DST_L, every other byte of memory as in s, and all that the writes still
to come depend on. -/
structure DigestStored (s : State) (k : Nat) (v : State) : Prop where
  inputs : v.inputs = []
  h : v.h = s.h
  dstL : v.dstL = s.dstL
  platform : v.platform = s.platform
  racedOut : v.racedOut = []
  written : ∀ j : Fin 32, j.val < k → v.byteAt (addrAfter s.dstL j.val) = digestByte s.h j
  others : ∀ a, (∀ j : Fin 32, j.val < k → a ≠ addrAfter s.dstL j.val) → v.byteAt a = s.byteAt a

theorem DigestStored.start {s : State} (hi : s.inputs = []) (hr : s.racedOut = []) : DigestStored s 0 s where
  inputs := hi
  h := rfl
  dstL := rfl
  platform := rfl
  racedOut := hr
  written := nofun
  others _ _ := rfl

theorem addrAfter_injective (a : Addr) {i j : Fin 32} (h : addrAfter a i.val = addrAfter a j.val) : i = j := by
  have hn := congrArg BitVec.toNat (BitVec.add_right_inj _ |>.1 h)
  rw [BitVec.toNat_ofNat, BitVec.toNat_ofNat] at hn
  omega

/-- The admitted WRITE of digest byte k adds that byte, and goes on or completes (44_driver.md R178, R180). -/
theorem DigestStored.write {s v : State} (hv : DigestStored s v.kw.val v) (hw : AdmittedWrites s s.dstL 32) :
    ∃ u, exec .write v = .next u ∧ DigestStored s (v.kw.val + 1) u ∧ u.kw = (if v.kw = 31 then 0 else v.kw + 1) ∧
      u.phase = (if v.kw = 31 then .idle else v.phase) ∧
      u.status = (if v.kw = 31 then { v.status with done := true } else v.status) := by
  have haddr : v.digestAddr = addrAfter s.dstL v.kw.val := by rw [digestAddr_eq, hv.dstL]
  have hadmit : v.admitW v.digestAddr = true := by
    rw [haddr, State.admitW, hv.platform]; exact hw v.kw.val v.kw.isLt
  refine ⟨_, exec_write_plain hadmit (by simp [hv.racedOut]), ?stored, rfl, rfl, rfl⟩
  refine ⟨hv.inputs, hv.h, hv.dstL, hv.platform, hv.racedOut, fun j hj => ?written, fun a ha => ?others⟩
  case written =>
    by_cases hjk : j = v.kw
    · rw [hjk, ← haddr, ← hv.h]
      exact byteAt_write_same v v.digestAddr _
    · have hne : addrAfter s.dstL j.val ≠ v.digestAddr := fun e => hjk (addrAfter_injective s.dstL (e.trans haddr))
      have hlt : j.val < v.kw.val := by have := Fin.val_ne_of_ne hjk; omega
      exact (byteAt_write_other v _ hne).trans (hv.written j hlt)
  case others =>
    have hne : a ≠ v.digestAddr := haddr ▸ ha v.kw (Nat.lt_succ_self _)
    exact (byteAt_write_other v _ hne).trans (hv.others a fun j hj => ha j (Nat.lt_succ_of_lt hj))

section
variable {s : State} (hi : s.inputs = []) (hp : s.phase = .write) (hk : s.kw = 0) (hr : s.racedOut = [])
  (hw : AdmittedWrites s s.dstL 32)
include hi hp hk hr hw

/-- After k < 32 micro-steps k digest bytes are stored, and the engine is in WRITE. -/
theorem runFor_writes (k : Fin 32) :
    ∃ v, runFor k.val s = .next v ∧ DigestStored s v.kw.val v ∧ v.kw = k ∧ v.phase = .write ∧ v.status = s.status := by
  obtain ⟨k, hlt⟩ := k
  induction k with
  | zero => exact ⟨s, rfl, hk ▸ .start hi hr, hk, hp, rfl⟩
  | succ k ih =>
    obtain ⟨v, hrun, hv, hvk, hvp, hvs⟩ := ih (Nat.lt_of_succ_lt hlt)
    obtain ⟨u, he, hu, huk, hup, hus⟩ := hv.write hw
    have hne : v.kw ≠ 31 := hvk ▸ Fin.ne_of_val_ne (Nat.ne_of_lt (Nat.lt_of_succ_lt_succ hlt))
    have hnext : u.kw = ⟨k + 1, hlt⟩ := by
      rw [huk, if_neg hne, hvk]; exact Fin.ext (Nat.mod_eq_of_lt hlt)
    refine ⟨u, ?_, ?_, hnext, ?_, ?_⟩
    · rw [runFor_add k 1 hrun, runFor_exec hv.inputs hvp he]; rfl
    · rw [hvk] at hu; rw [hnext]; exact hu
    · rw [hup, if_neg hne, hvp]
    · rw [hus, if_neg hne, hvs]

/-- After the 32nd micro-step the digest is stored whole and the operation is complete. -/
theorem runFor_all_writes :
    ∃ u, runFor 32 s = .next u ∧ DigestStored s 32 u ∧ u.phase = .idle ∧ u.status = { s.status with done := true } := by
  obtain ⟨v, hrun, hv, hvk, hvp, hvs⟩ := runFor_writes hi hp hk hr hw 31
  obtain ⟨u, he, hu, -, hup, hus⟩ := hv.write hw
  refine ⟨u, ?_, ?_, ?_, ?_⟩
  · rw [runFor_add 31 1 hrun, runFor_exec hv.inputs hvp he]; rfl
  · rwa [hvk] at hu
  · rw [hup, if_pos hvk]
  · rw [hus, if_pos hvk, hvs]

end

/-- Settles O57: each WRITE adds its byte to those stored, by induction on KW, and the last one completes. -/
theorem digestTakesThirtyTwoWrites : Obligations.DigestTakesThirtyTwoWrites := by
  intro s hi hp hk hr hw
  obtain ⟨u, hrun, hu, hup, hus⟩ := runFor_all_writes hi hp hk hr hw
  exact ⟨u, hrun, hup, hus, hu.h, fun j => hu.written j j.isLt, fun a ha => hu.others a fun j _ => ha j⟩

/-! ### The blocks of the padded message. -/

theorem blockOf_append {xs : List Byte} (h : 64 ≤ xs.length) (ys : List Byte) : blockOf (xs ++ ys) = blockOf xs := by
  refine Vector.ext fun j hj => ?_
  have hget (bs : List Byte) : (blockOf bs)[j] = bs.getD j 0#8 := Vector.getElem_ofFn hj
  rw [hget, hget, List.getD_append _ _ _ _ (hj.trans_le h)]

/-- The marker, the zeros and the trailer, after the message (41_padder.md R127, R131). -/
theorem paddedMessage_eq (msg : List Byte) : paddedMessage msg =
    withMarker msg false ++ (List.replicate (paddingZeros msg.length) 0#8 ++ be64Bytes (BitVec.ofNat 64 (8 * msg.length))) :=
  List.append_assoc _ _ _

/-- A block within the message is its bytes (41_padder.md R122). -/
theorem messageBlock_full {msg : List Byte} {k : Nat} (h : 64 * (k + 1) ≤ msg.length) :
    messageBlock msg k = blockOf ((msg.drop (64 * k)).take 64) := by
  have hlen : ((msg.drop (64 * k)).take 64).length = 64 := by rw [List.length_take, List.length_drop]; omega
  rw [messageBlock, paddedMessage_eq, withMarker, if_neg Bool.false_ne_true, List.append_assoc,
    List.drop_append_of_le_length (by omega)]
  conv_lhs => rw [← List.take_append_drop 64 (msg.drop (64 * k)), List.append_assoc]
  exact blockOf_append hlen.ge _

section
variable {msg : List Byte} {k : Nat} {l : Addr}

/-- The block the message ends in: its last bytes, the marker, zeros, and the trailer where it fits (41_padder.md R124 to
R126). -/
theorem messageBlock_last (hl : l.toNat = msg.length) (hk : msg.length < 64 * (k + 1)) (h : 64 * k ≤ msg.length) :
    messageBlock msg k = blockOf (tailBlock (withMarker (msg.drop (64 * k)) false) l) := by
  have hb : (withMarker (msg.drop (64 * k)) false).length = msg.length - 64 * k + 1 := by
    rw [withMarker_length, List.length_drop]; rfl
  have hdrop : (withMarker msg false).drop (64 * k) = withMarker (msg.drop (64 * k)) false :=
    List.drop_append_of_le_length h
  have hm : 64 * k ≤ (withMarker msg false).length := by rw [withMarker_length]; omega
  rw [messageBlock, paddedMessage_eq, List.drop_append_of_le_length hm, hdrop, ← hl]
  generalize withMarker (msg.drop (64 * k)) false = body at hb
  by_cases hf : trailerFits body = true
  · have hz : paddingZeros l.toNat = 56 - body.length := by
      have := trailerFits_eq_true.1 hf
      rw [paddingZeros]; omega
    rw [tailBlock, if_pos hf, hz, List.append_assoc, trailerBytes]
  · have hz : paddingZeros l.toNat = (64 - body.length) + (paddingZeros l.toNat - (64 - body.length)) := by
      have := trailerFits_eq_true.not.1 hf
      rw [paddingZeros]; omega
    rw [tailBlock, if_neg hf, hz, List.replicate_add, List.append_assoc, ← List.append_assoc body]
    refine blockOf_append ?_ _
    rw [List.length_append, List.length_replicate]; omega

/-- The block after the message, where its last one has no room for the trailer: zeros and the trailer. -/
theorem messageBlock_beyond (hl : l.toNat = msg.length) (h : msg.length < 64 * k) (hn : k < blockCount msg.length) :
    messageBlock msg k = blockOf (tailBlock [] l) := by
  rw [blockCount] at hn
  have hm : (withMarker msg false).length = msg.length + 1 := withMarker_length msg false
  have hz : 64 * k - (withMarker msg false).length ≤ paddingZeros msg.length ∧
      paddingZeros msg.length - (64 * k - (withMarker msg false).length) = 56 := by
    rw [hm, paddingZeros]; omega
  rw [messageBlock, paddedMessage_eq, List.drop_append, List.drop_of_length_le (by omega), List.nil_append,
    List.drop_append_of_le_length (by rw [List.length_replicate]; exact hz.1), List.drop_replicate, hz.2, ← hl]
  rfl

/-- A tail block of the message, its marker emitted now or before. -/
theorem messageBlock_tail (hl : l.toNat = msg.length) (hk : msg.length < 64 * (k + 1)) (hn : k < blockCount msg.length) :
    messageBlock msg k = blockOf (tailBlock (withMarker (msg.drop (64 * k)) (decide (msg.length < 64 * k))) l) := by
  by_cases h : msg.length < 64 * k
  · rw [decide_eq_true h, List.drop_of_length_le h.le, withMarker, if_pos rfl]
    exact messageBlock_beyond hl h hn
  · rw [decide_eq_false h]
    exact messageBlock_last hl hk (Nat.le_of_not_lt h)

/-- A tail block has room for the trailer exactly where it is the last block (41_padder.md R125, R129). -/
theorem trailerFits_iff_last (hk : msg.length < 64 * (k + 1)) (hn : k < blockCount msg.length) :
    trailerFits (withMarker (msg.drop (64 * k)) (decide (msg.length < 64 * k))) =
      decide (blockCount msg.length ≤ k + 1) := by
  rw [blockCount] at hn ⊢
  rw [Bool.eq_iff_iff, trailerFits_eq_true, withMarker_length, List.length_drop]
  simp only [decide_eq_true_eq]
  split <;> omega

end

/-! ### The input bytes in memory. -/

theorem bytesFrom_length (s : State) (a : Addr) (n : Nat) : (bytesFrom s a n).length = n := by
  rw [bytesFrom, List.length_map, List.length_range]

theorem bytesFrom_getElem (s : State) (a : Addr) (n : Nat) {j : Nat} (h : j < (bytesFrom s a n).length) :
    (bytesFrom s a n)[j] = s.byteAt (addrAfter a j) := by
  simp only [bytesFrom, List.getElem_map, List.getElem_range]

theorem bytesFrom_drop (s : State) (a : Addr) (n i : Nat) :
    (bytesFrom s a n).drop i = bytesFrom s (addrAfter a (min i n)) (n - i) := by
  refine List.ext_getElem (by simp only [List.length_drop, bytesFrom_length]) fun j h _ => ?_
  rw [List.length_drop, bytesFrom_length] at h
  rw [List.getElem_drop, bytesFrom_getElem, bytesFrom_getElem, addrAfter_addrAfter, min_eq_left (by omega)]

theorem bytesFrom_take (s : State) (a : Addr) {m n : Nat} (h : m ≤ n) : (bytesFrom s a n).take m = bytesFrom s a m := by
  refine List.ext_getElem (by rw [List.length_take, bytesFrom_length, bytesFrom_length, min_eq_left h]) fun j _ _ => ?_
  rw [List.getElem_take, bytesFrom_getElem, bytesFrom_getElem]

/-- A part of an admitted run is admitted. -/
theorem admittedRun_part {s : State} {a : Addr} {i m n : Nat} (h : AdmittedRun s a n) (him : i + m ≤ n) :
    AdmittedRun s (addrAfter a i) m := fun j hj => by
  rw [addrAfter_addrAfter]
  exact h (i + j) (by omega)

/-! ### FRAME and the k-th block. -/

/-- The cursor after k blocks of an operation on the n bytes at a (41_padder.md R122 to R126). -/
def cursorAfter (a n : Addr) (k : Nat) : Cursor where
  cur := addrAfter a (min (64 * k) n.toNat)
  rem := BitVec.ofNat 64 (n.toNat - 64 * k)
  lenL := n
  marker := decide (n.toNat < 64 * k)
  trailer := decide (blockCount n.toNat ≤ k)

/-- The cursor that accept_hash() latches (44_driver.md R171). -/
theorem cursorAfter_zero (a n : Addr) :
    cursorAfter a n 0 = { cur := a, rem := n, lenL := n, marker := false, trailer := false } := by
  simp [cursorAfter, blockCount]

theorem cursorAfter_rem_toNat (a n : Addr) (k : Nat) : (cursorAfter a n k).rem.toNat = n.toNat - 64 * k :=
  (BitVec.toNat_ofNat _ _).trans (Nat.mod_eq_of_lt ((Nat.sub_le _ _).trans_lt n.isLt))

section
variable {a n : Addr} {k : Nat}

theorem cursorAfter_trailer_false (h : k < blockCount n.toNat) : (cursorAfter a n k).trailer = false :=
  decide_eq_false (Nat.not_le.2 h)

/-- A full block moves the cursor by 64 bytes. -/
theorem cursorAfter_succ_full (h : 64 * (k + 1) ≤ n.toNat) :
    cursorAfter a n (k + 1) = { cursorAfter a n k with
      cur := addrAfter (cursorAfter a n k).cur 64, rem := (cursorAfter a n k).rem - 64#64 } := by
  have hc : addrAfter a (min (64 * (k + 1)) n.toNat) = addrAfter (addrAfter a (min (64 * k) n.toNat)) 64 := by
    rw [addrAfter_addrAfter, min_eq_left h, min_eq_left (by omega), Nat.mul_succ]
  have hr : (cursorAfter a n (k + 1)).rem = (cursorAfter a n k).rem - 64#64 := by
    refine BitVec.eq_of_toNat_eq ?_
    have hle : (64#64 : Addr) ≤ (cursorAfter a n k).rem := by
      rw [BitVec.le_def, cursorAfter_rem_toNat, BitVec.toNat_ofNat]; omega
    rw [BitVec.toNat_sub_of_le hle, cursorAfter_rem_toNat, cursorAfter_rem_toNat, BitVec.toNat_ofNat]
    omega
  have hm : decide (n.toNat < 64 * (k + 1)) = decide (n.toNat < 64 * k) := by
    rw [decide_eq_decide]; omega
  have ht : decide (blockCount n.toNat ≤ k + 1) = decide (blockCount n.toNat ≤ k) := by
    rw [decide_eq_decide, blockCount]; omega
  rw [← hr]
  simp only [cursorAfter, hc, hm, ht]

/-- A tail block consumes what is left. -/
theorem cursorAfter_succ_tail (h : n.toNat < 64 * (k + 1)) :
    cursorAfter a n (k + 1) = { cursorAfter a n k with
      cur := addrAfter (cursorAfter a n k).cur (n.toNat - 64 * k), rem := 0#64, marker := true
      trailer := decide (blockCount n.toNat ≤ k + 1) } := by
  simp only [cursorAfter, addrAfter_addrAfter, h, decide_true, Nat.sub_eq_zero_of_le h.le, min_eq_right h.le]
  rw [show min (64 * k) n.toNat + (n.toNat - 64 * k) = n.toNat by omega]

end

/-- Undisturbed, the padder's block number k is that of the padded message (41_padder.md R120, R131). -/
theorem produceNextBlock_message {s : State} {a n : Addr} {k : Nat} (hc : s.cursor = cursorAfter a n k)
    (hk : k < blockCount n.toNat) (hr : s.racedIn = []) (ha : AdmittedRun s a n.toNat) :
    produceNextBlock s = .block (messageBlock (bytesFrom s a n.toNat) k) (cursorAfter a n (k + 1)) s.draws := by
  have hlen : n.toNat = (bytesFrom s a n.toNat).length := (bytesFrom_length s a n.toNat).symm
  have ht : s.cursor.trailer = false := hc ▸ cursorAfter_trailer_false hk
  have hrem : s.cursor.rem.toNat = n.toNat - 64 * k := hc ▸ cursorAfter_rem_toNat a n k
  have hrun {m : Nat} (hm : min (64 * k) n.toNat + m ≤ n.toNat) :
      s.readRun m s.cursor.cur s.draws = .bytes (bytesFrom s (addrAfter a (min (64 * k) n.toNat)) m) s.draws :=
    hc ▸ readRun_plain s m _ s.draws (admittedRun_part ha hm) (by simp [hr])
  by_cases hfull : 64 * (k + 1) ≤ n.toNat
  · rw [produceNextBlock_full ht (by omega) (hrun (by omega)), messageBlock_full (hlen ▸ hfull), bytesFrom_drop,
      bytesFrom_take s _ (by omega), cursorAfter_succ_full hfull, hc]
  · have htail : n.toNat < 64 * (k + 1) := Nat.lt_of_not_le hfull
    have hfits := trailerFits_iff_last (hlen ▸ htail) (hlen ▸ hk)
    rw [bytesFrom_length, bytesFrom_drop] at hfits
    rw [produceNextBlock_tail ht (by omega) (hrun (by omega)), messageBlock_tail hlen (hlen ▸ htail) (hlen ▸ hk),
      bytesFrom_drop, bytesFrom_length, cursorAfter_succ_tail htail, ← hfits, hrem, hc]
    rfl

/-! ### A whole operation. -/

/-- The hash state after the first k blocks of a message (44_driver.md R182). -/
def hashAfter (msg : List Byte) (k : Nat) : Vector Word 8 :=
  (List.range k).foldl (fun h j => compressBlock h (messageBlock msg j)) ivTable

theorem hashAfter_succ (msg : List Byte) (k : Nat) :
    hashAfter msg (k + 1) = compressBlock (hashAfter msg k) (messageBlock msg k) := by
  rw [hashAfter, List.range_succ, List.foldl_concat, hashAfter]

theorem hashAfter_all (msg : List Byte) : hashAfter msg (blockCount msg.length) = sha256 msg := rfl

/-- From the FRAME of the acceptance, 67 * k micro-steps fold the first k blocks of the message into H (44_driver.md R183). -/
theorem runFor_blocks {s : State} {a n : Addr} (hi : s.inputs = []) (hp : s.phase = .frame)
    (hc : s.cursor = cursorAfter a n 0) (hh : s.h = ivTable) (hr : s.racedIn = []) (ha : AdmittedRun s a n.toNat) {k : Nat}
    (hk : k ≤ blockCount n.toNat) :
    ∃ b d w wr i, runFor (67 * k) s = .next { s with
      blk := b, cursor := cursorAfter a n k, draws := d, w := w, wr := wr, t := i
      h := hashAfter (bytesFrom s a n.toNat) k } := by
  induction k with
  | zero => exact ⟨s.blk, s.draws, s.w, s.wr, s.t, by rw [← hc, hashAfter, List.range_zero, List.foldl_nil, ← hh]; rfl⟩
  | succ k ih =>
    obtain ⟨b, d, w, wr, i, hrun⟩ := ih (Nat.le_of_succ_le hk)
    rw [Nat.mul_succ, runFor_add (67 * k) 67 hrun, hashAfter_succ]
    exact ⟨_, _, _, _, _, runFor_block (by exact hi) (by exact hp) (produceNextBlock_message rfl hk hr ha)⟩

/-- After the last block the next FRAME goes to WRITE, the digest of the message in H (44_driver.md R174, R182). -/
theorem runFor_to_write {s : State} {a n : Addr} (hi : s.inputs = []) (hp : s.phase = .frame)
    (hc : s.cursor = cursorAfter a n 0) (hh : s.h = ivTable) (hr : s.racedIn = []) (ha : AdmittedRun s a n.toNat) :
    ∃ b c d w wr i, runFor (67 * blockCount n.toNat + 1) s = .next { s with
      blk := b, cursor := c, draws := d, w := w, wr := wr, t := i
      h := sha256 (bytesFrom s a n.toNat), kw := 0, phase := .write } := by
  obtain ⟨b, d, w, wr, i, hrun⟩ := runFor_blocks hi hp hc hh hr ha le_rfl
  have hsha : hashAfter (bytesFrom s a n.toNat) (blockCount n.toNat) = sha256 (bytesFrom s a n.toNat) := by
    rw [← hashAfter_all, bytesFrom_length]
  refine ⟨b, cursorAfter a n (blockCount n.toNat), d, w, wr, i, ?_⟩
  rw [runFor_add _ 1 hrun, runFor_exec (p := .frame) (by exact hi) (by exact hp)
    (frameAfterTrailer _ (decide_eq_true le_rfl)), ← hsha]
  rfl

/-- The digest is written in the 32 micro-steps after the first n, the engine being in WRITE before the last of them. -/
theorem runFor_digest_after {s₀ s : State} {n : Nat} (hn : runFor n s₀ = .next s) (hi : s.inputs = [])
    (hp : s.phase = .write) (hk : s.kw = 0) (hr : s.racedOut = []) (hw : AdmittedWrites s s.dstL 32) :
    (∃ v, runFor (n + 31) s₀ = .next v ∧ v.phase = .write) ∧
    ∃ u, runFor (n + 32) s₀ = .next u ∧ DigestStored s 32 u ∧ u.phase = .idle ∧
      u.status = { s.status with done := true } := by
  obtain ⟨v, hv, -, -, hvp, -⟩ := runFor_writes hi hp hk hr hw 31
  rw [runFor_add n 31 hn, runFor_add n 32 hn]
  exact ⟨⟨v, hv, hvp⟩, runFor_all_writes hi hp hk hr hw⟩

/-- Settles O58: the blocks are folded and the digest written as in O56 and O57, and an engine in WRITE before the last
micro-step was BUSY all the time before. -/
theorem hashWritesSha256OfInput : Obligations.HashWritesSha256OfInput := by
  intro s g hp hi hposted hsrc hdst ha hw
  obtain ⟨b, c, d, w, wr, i, hrun⟩ := runFor_to_write (s := latchOperation (clearCompletion s)) (a := s.src) (n := s.len)
    hi rfl (cursorAfter_zero s.src s.len).symm rfl (by simp [hposted]) ha
  obtain ⟨⟨v, hv, hvp⟩, u, hu, hstored, hup, hus⟩ :=
    runFor_digest_after hrun (by exact hi) rfl rfl rfl (by exact hw)
  refine ⟨latchOperation (clearCompletion s), u, ?accept, hu, fun k hk => ?busy, hup, hus, hstored.h,
    fun j => hstored.written j j.isLt, fun x hx => hstored.others x fun j _ => hx j⟩
  case accept => rw [exec_cmdHash_idle hp, acceptHash_fits hsrc hdst]
  case busy => exact runFor_busy_before hi hv (by simp [hvp]) (Nat.le_of_lt_succ hk)

end Sys2Proof.Machine
end

section
/-! Statements of 45_register_access.md: which accesses are refused, what every access leaves as it is, and what each read, write
and command does. -/

namespace Sys2Proof.Machine

open Sys2Proof.Safety

/-! ### Refused accesses. -/

theorem aligned_lane_bits (wr : Bool) (r : BitVec 6) (d : Word) :
    ¬((busWord wr r 0#2 d).getLsbD 32 = true ∨ (busWord wr r 0#2 d).getLsbD 33 = true) := by
  rw [getLsbD_busWord, getLsbD_busWord]
  simp

/-- A transaction word with OFF[1:0] not 00 is of one of the three MISALIGNED rows (30_encoding.md R81). -/
theorem decode_misaligned {w : BitVec 41} (hw : w.getLsbD 32 = true ∨ w.getLsbD 33 = true) :
    ∃ i, decode (.bus w) = .ok i ∧ ∀ s, exec i s = .refused .misalignedOrNarrowRegisterAccess := by
  induction w using busWord_cases with
  | lane1 wr r d => exact ⟨_, decode_bus_eq_ok.mpr (decodeWord_lane1 wr r d), fun _ => rfl⟩
  | lane2 wr r d => exact ⟨_, decode_bus_eq_ok.mpr (decodeWord_lane2 wr r d), fun _ => rfl⟩
  | lane3 wr r d => exact ⟨_, decode_bus_eq_ok.mpr (decodeWord_lane3 wr r d), fun _ => rfl⟩
  | write x d => exact absurd hw (aligned_lane_bits true (encodeSlot x) d)
  | read x => exact absurd hw (aligned_lane_bits false (encodeSlot x) 0#32)
  | readData x d _ => exact absurd hw (aligned_lane_bits false (encodeSlot x) d)

section
variable {s : State} {rest : List Input}

/-- A refusal in the phases 0 to 5 is one in every phase, under the name of R88 in the others. -/
theorem exists_refusal {r : Refusal} (h : s.phase ≠ .unused6 → s.phase ≠ .unused7 → step s = .refused r) :
    ∃ q, step s = .refused q ∧ (s.phase ≠ .unused6 → s.phase ≠ .unused7 → q = r) := by
  cases hr : s.phaseReserved with
  | true =>
    refine ⟨.reservedPhase, step_reserved hr, fun h6 h7 => ?_⟩
    rw [(phaseReserved_eq_false s).mpr ⟨h6, h7⟩] at hr
    cases hr
  | false =>
    obtain ⟨h6, h7⟩ := (phaseReserved_eq_false s).mp hr
    exact ⟨r, h h6 h7, fun _ _ => rfl⟩

variable (h6 : s.phase ≠ .unused6) (h7 : s.phase ≠ .unused7)
include h6 h7

theorem step_misaligned_word {w : BitVec 41} (hin : s.inputs = .access w :: rest)
    (hw : w.getLsbD 32 = true ∨ w.getLsbD 33 = true) : step s = .refused .misalignedOrNarrowRegisterAccess := by
  obtain ⟨i, hd, he⟩ := decode_misaligned hw
  exact (stepRunsDecodedInstruction.1 s w rest i h6 h7 hin hd).trans (he _)

variable {addr : Addr} {bits : Nat} {wr : Bool} {v : Word} (hin : s.inputs = .bus addr bits wr v :: rest)
include hin

/-- A bus access of another size than 32 bits, or outside the window, has no transaction word. -/
theorem step_foreign_access
    (h : bits ≠ 32 ∨ addr.toNat < s.platform.base.toNat ∨ s.platform.base.toNat + 256 ≤ addr.toNat) :
    step s = .refused .misalignedOrNarrowRegisterAccess := by
  have hnone : transactionWord s.platform.base addr bits wr v = none :=
    if_neg (by simp only [windowBytes]; omega)
  rw [step, fetch_input hin ((phaseReserved_eq_false s).mpr ⟨h6, h7⟩)]
  simp only [fetchInput, fetchBus, hnone]

/-- In the window, the two low bits of the offset are OFF[1:0] of the transaction word. -/
theorem step_misaligned_offset (hbits : bits = 32) (hlo : s.platform.base.toNat ≤ addr.toNat)
    (hhi : addr.toNat < s.platform.base.toNat + 256) (h : (addr.toNat - s.platform.base.toNat) % 4 ≠ 0) :
    step s = .refused .misalignedOrNarrowRegisterAccess := by
  subst hbits
  have hoff : (BitVec.ofNat 8 (addr.toNat - s.platform.base.toNat)).toNat = addr.toNat - s.platform.base.toNat :=
    (BitVec.toNat_ofNat _ 8).trans (Nat.mod_eq_of_lt (by omega))
  generalize BitVec.ofNat 8 (addr.toNat - s.platform.base.toNat) = off at hoff
  have hlane : off.getLsbD 0 = true ∨ off.getLsbD 1 = true := by
    simp only [BitVec.getLsbD, Nat.testBit, Nat.shiftRight_eq_div_pow, Nat.one_and_eq_mod_two, bne_iff_ne]
    omega
  rw [windowAccessIsItsTransactionWord s addr wr v rest off hin (by omega)]
  refine step_misaligned_word (s := { s with inputs := _ }) h6 h7 rfl ?_
  rw [BitVec.getLsbD_append, BitVec.getLsbD_append, BitVec.getLsbD_append, BitVec.getLsbD_append]
  simpa using hlane

end

/-- Settles O7: a misaligned word is of a MISALIGNED row, and a bus access has a misaligned word or none. -/
theorem misalignedNarrowOrOutsideAccessIsRefused : Obligations.MisalignedNarrowOrOutsideAccessIsRefused := by
  refine ⟨fun _ _ _ _ => ⟨rfl, rfl, rfl⟩, fun s w rest hin hw => ?word, fun s addr bits wr v rest hin h => ?bus⟩
  case word => exact exists_refusal fun h6 h7 => step_misaligned_word h6 h7 hin hw
  case bus =>
    refine exists_refusal fun h6 h7 => ?_
    by_cases hf : bits ≠ 32 ∨ addr.toNat < s.platform.base.toNat ∨ s.platform.base.toNat + 256 ≤ addr.toNat
    · exact step_foreign_access h6 h7 hin hf
    · exact step_misaligned_offset h6 h7 hin (by omega) (by omega) (by omega) (by omega)

/-! ### The frame of every access. -/

/-- Settles O49: of all an access can do, only the ends of a command touch the datapath, and these need an IDLE engine. -/
theorem registerAccessFrame : Obligations.RegisterAccessFrame := by
  intro i s t ha h
  rcases access_next ha h with rfl | ⟨v, rfl⟩ | ⟨-, rfl⟩ | ⟨v, -, rfl⟩ | ⟨v, -, rfl⟩ | ⟨o, rfl⟩ | ⟨-, rfl, -⟩ |
    ⟨hp, -, rfl⟩ | ⟨hp, -, rfl⟩
  · simp
  · simp
  · simp
  · simp
  · simp
  · simp
  · simp
  · rcases accept_cases s with ⟨-, e⟩ | ⟨-, e⟩ <;> simp [e, hp]
  · simp [hp]

/-! ### Reads. -/

/-- Settles O11: each of these reads answers its constant. -/
theorem constantReads : Obligations.ConstantReads :=
  fun _ => ⟨rfl, rfl, fun _ => rfl, fun _ => rfl, fun _ => rfl⟩

/-- Settles O12: each of these reads answers its register. -/
theorem operandRegisterReads : Obligations.OperandRegisterReads :=
  fun _ => ⟨rfl, rfl, rfl, rfl, rfl, rfl⟩

theorem loHalf_toNat (a : Addr) : (loHalf a).toNat = a.toNat % 2 ^ 32 := by
  rw [loHalf, BitVec.extractLsb'_toNat, Nat.shiftRight_zero]

theorem hiHalf_toNat (a : Addr) : (hiHalf a).toNat = a.toNat / 2 ^ 32 := by
  rw [hiHalf, BitVec.extractLsb'_toNat, Nat.shiftRight_eq_div_pow]
  have := a.isLt
  omega

/-- Settles O13: the halves of ERRADDR, as numbers. -/
theorem erraddrReadsAreItsHalves : Obligations.ErraddrReadsAreItsHalves :=
  fun s => ⟨loHalf s.errAddr, hiHalf s.errAddr, rfl, rfl, loHalf_toNat _, hiHalf_toNat _⟩

theorem setWidth_ofBool (b : Bool) : (BitVec.ofBool b).setWidth 32 = if b then 1#32 else 0#32 := by
  cases b <;> rfl

/-- Settles O14: the answer is IE, zero-extended. -/
theorem ctrlRead : Obligations.CtrlRead := by
  intro s
  rw [← setWidth_ofBool]
  rfl

theorem busy_toNat (s : State) : s.busy.toNat = if s.phase = .idle then 0 else 1 := by
  by_cases hp : s.phase = .idle <;> simp [State.busy, hp]

/-- The word of STATUS as a number, field by field (10_state.md R37). -/
theorem statusWord_toNat (s : State) :
    s.statusWord.toNat = s.busy.toNat + 2 * s.status.done.toNat + 4 * s.status.err.toNat + 8 * s.status.ovr.toNat +
      256 * s.status.errcode.code.toNat := by
  simp only [State.statusWord, toNat_append_eq_add, BitVec.toNat_ofBool, BitVec.toNat_ofNat]
  omega

/-- Settles O15: the word answered, as a number, with the codes of R38. -/
theorem statusReadFormula : Obligations.StatusReadFormula := by
  intro s
  refine ⟨s.statusWord, rfl, ?_⟩
  rw [statusWord_toNat, busy_toNat]
  cases s.status.errcode <;> rfl

theorem exec_rdHash_idle {s : State} (hp : s.phase = .idle) (i : Fin 8) :
    exec (.rdHash i) s = .next (s.answer (s.h.get i)) :=
  if_neg fun hb => busy_eq_true.1 hb hp

theorem exec_rdHash_busy {s : State} (hp : s.phase ≠ .idle) (i : Fin 8) : exec (.rdHash i) s = .next s.answerDraw :=
  if_pos (busy_eq_true.2 hp)

/-- Settles O16: the answer is H[i] while IDLE, a free value while BUSY. -/
theorem hashRead : Obligations.HashRead :=
  fun s i => ⟨fun hp => exec_rdHash_idle hp i, fun hp => ⟨Config.freeWord s.draws, exec_rdHash_busy hp i⟩⟩

/-! ### Writes. -/

/-- Settles O17: each write stores its word; the high words decide both corner cases. -/
theorem operandRegisterWrites : Obligations.OperandRegisterWrites := by
  refine fun s v => ⟨rfl, rfl, rfl, rfl, rfl, rfl, ?len, fun g hp h => ?dst⟩
  case len =>
    have := s.ops.lenLo.isLt
    have hv : v ≠ 0#32 ↔ v.toNat ≠ 0 := (BitVec.toNat_eq (y := 0#32)).not
    rw [toNat_append_eq_add, hv]
    omega
  case dst =>
    refine ⟨_, exec_cmdHash_idle (by exact hp) g, ?_⟩
    rw [acceptHash_range (.inr (by exact h))]
    rfl

/-- Settles O18: each of these writes answers the state it got. -/
theorem ignoredWrites : Obligations.IgnoredWrites :=
  fun _ _ => ⟨rfl, rfl, rfl, fun _ => rfl, fun _ => rfl, fun _ => rfl, fun _ => rfl⟩

/-- Settles O19: IE is bit 0 of the word, and IRQ is read off the state after it. -/
theorem ctrlWrite : Obligations.CtrlWrite := fun _ _ => ⟨_, rfl, rfl, rfl⟩

theorem and_not_eq_ite (a b : Bool) : (a && !b) = if b = true then false else a := by
  cases b <;> simp

/-- The write of ones to STATUS, field by field (45_register_access.md R201). -/
theorem Status.clear_eq (st : Status) (v : Word) : st.clear v =
    { done := if v.getLsbD 1 = true then false else st.done
      err := if v.getLsbD 2 = true then false else st.err
      ovr := if v.getLsbD 3 = true then false else st.ovr
      errcode := if v.getLsbD 2 = true then .none else st.errcode } := by
  simp only [Status.clear, and_not_eq_ite]

/-- With no completion recorded, a write of ones can clear OVR only. -/
theorem Status.clear_of_no_completion {st : Status} (hd : st.done = false) (he : st.err = false) (hc : st.errcode = .none)
    (v : Word) : st.clear v = { st with ovr := (st.clear v).ovr } := by
  simp [Status.clear, hd, he, hc]

/-- Settles O20: the acknowledgement clears by ones; while BUSY the invariant leaves OVR alone to clear. -/
theorem statusWriteClears : Obligations.StatusWriteClears := by
  refine fun s v => ⟨acknowledge s v, rfl, ?fields, rfl, fun hinv hb => ?busy⟩
  case fields => rw [acknowledge, Status.clear_eq]
  case busy =>
    obtain ⟨hd, he, -⟩ := hinv.running hb
    have hc : s.status.errcode = .none := by
      by_contra hne
      exact absurd (hinv.errcode.2 hne) (by simp [he])
    exact ⟨hd, he, Status.clear_of_no_completion hd he hc v⟩

/-! ### Commands. -/

/-- Settles O21: this is the meaning of NOP. -/
theorem nopHasNoEffect : Obligations.NopHasNoEffect := fun _ _ => rfl

section
variable {s : State}

theorem exec_cmdIllegal_idle (hp : s.phase = .idle) (c : Byte) (g : BitVec 24) :
    exec (.cmdIllegal c g) s = .next (completeError s .illegalCmd 0#64) :=
  if_neg fun hb => busy_eq_true.1 hb hp

theorem exec_cmdIllegal_busy (hp : s.phase ≠ .idle) (c : Byte) (g : BitVec 24) :
    exec (.cmdIllegal c g) s = .next (overrun s) :=
  if_pos (busy_eq_true.2 hp)

theorem exec_cmdHash_busy (hp : s.phase ≠ .idle) (g : BitVec 24) : exec (.cmdHash g) s = .next (overrun s) :=
  if_pos (busy_eq_true.2 hp)

end

/-- Settles O23: the command completes with its error while IDLE, and is dropped while BUSY. -/
theorem illegalCommandError : Obligations.IllegalCommandError :=
  fun _ c g _ _ => ⟨fun hp => exec_cmdIllegal_idle hp c g, fun hp => exec_cmdIllegal_busy hp c g⟩

/-- Settles O24: both commands are dropped, and what can clear OVR is known of every step. -/
theorem commandWhileBusyIsDropped : Obligations.CommandWhileBusyIsDropped :=
  ⟨fun _ hp => ⟨exec_cmdHash_busy hp, fun c g _ _ => exec_cmdIllegal_busy hp c g⟩,
    fun _ _ h => (step_statusChange h).ovr_cleared⟩

end Sys2Proof.Machine
end

section
/-! Statements of 60_exceptions.md: how an operation ends where the memory refuses an access, what takes the engine out of IDLE,
and what the host cannot see. -/

namespace Sys2Proof.Machine

open Sys2Proof.Safety

/-! ### The two bus errors. -/

/-- An error completion of a running operation: the host reads that wait are answered first (44_driver.md R181). -/
theorem completeError_answerWaiting (s : State) (code : ErrCode) (a : Addr) :
    completeError s.answerWaiting code a = { s with
      phase := .idle, waiting := []
      mdata := if s.waiting = [] then s.mdata else s.waiting.map fun a => (a, s.byteAt a)
      status := { done := true, err := true, ovr := s.status.ovr, errcode := code }
      errAddr := a } := by
  simp only [completeError, State.answerWaiting, List.isEmpty_iff]

/-- Settles O36: a refused WRITE is an error completion in the state it found. -/
theorem refusedWriteError : Obligations.RefusedWriteError := by
  intro s hw
  rw [exec_write_refused hw, completeError_answerWaiting]
  rfl

/-- The padder reads the first 64 bytes left, or all where there are fewer, and stops at a refused one among them
(41_padder.md R128). -/
theorem produceNextBlock_busRead {s : State} {j : Nat} (ht : s.cursor.trailer = false) (hj : j < 64)
    (hr : j < s.cursor.rem.toNat) (h : AdmittedRun s s.cursor.cur j) (hx : s.admitR (addrAfter s.cursor.cur j) = false) :
    ∃ d, produceNextBlock s = .busRead (addrAfter s.cursor.cur j) d := by
  have hrun : ∀ n, j < n → ∃ d, s.readRun n s.cursor.cur s.draws = .refusedAt (addrAfter s.cursor.cur j) d :=
    fun n hn => readRun_refused s n j s.cursor.cur s.draws hn h hx
  by_cases hb : 64 ≤ s.cursor.rem.toNat
  · obtain ⟨d, e⟩ := hrun 64 hj
    exact ⟨d, by simp only [produceNextBlock, ht, hb, e, if_true, if_false, Bool.false_eq_true]⟩
  · obtain ⟨d, e⟩ := hrun s.cursor.rem.toNat hr
    exact ⟨d, by simp only [produceNextBlock, ht, hb, e, if_false, Bool.false_eq_true]⟩

/-- Losing BLK and the cursor, and answering the host reads that wait, are independent of each other. -/
theorem afterRefusedRead_answerWaiting (s : State) (d : Nat) :
    afterRefusedRead s.answerWaiting d = (afterRefusedRead s d).answerWaiting := rfl

theorem exec_frame_busRead {s : State} {a : Addr} {d : Nat} (h : produceNextBlock s = .busRead a d) :
    exec .frame s = .next (completeError (afterRefusedRead s.answerWaiting d) .busRead a) := by
  rw [exec_frame, execFrame, h]

/-- Settles O29: the padder's run of reads ends at the refused byte, and FRAME is an error completion at its address. -/
theorem frameRefusedRead : Obligations.FrameRefusedRead := by
  intro s j ht hj hr h hx
  obtain ⟨d, e⟩ := produceNextBlock_busRead ht hj hr h hx
  refine ⟨freeBlock d, (afterRefusedRead s d).cursor, d + 64, ?_⟩
  rw [exec_frame_busRead e, afterRefusedRead_answerWaiting, completeError_answerWaiting]
  rfl

/-! ### Leaving IDLE. -/

theorem acceptHash_leaves_idle {s : State} (h : (acceptHash s).phase ≠ .idle) :
    s.src.toNat + s.len.toNat ≤ 2 ^ 64 ∧ s.dst.toNat + 32 ≤ 2 ^ 64 ∧ (acceptHash s).phase = .frame := by
  rcases accept_cases s with ⟨hr, e⟩ | ⟨-, e⟩ <;> rw [e] at h ⊢
  · obtain ⟨hsrc, hdst⟩ := rangeOk_eq_true.1 hr
    exact ⟨hsrc, hdst, latchOperation_phase _⟩
  · exact absurd (completeError_phase _ _ _) h

/-- A register access that leaves IDLE accepts a HASH. -/
theorem access_leaves_idle {i : Instr} {s t : State} (ha : i.isAccess = true) (h : exec i s = .next t)
    (hp : s.phase = .idle) (hne : t.phase ≠ .idle) : (∃ g, i = .cmdHash g) ∧ t = acceptHash s := by
  rcases access_next ha h with rfl | ⟨v, rfl⟩ | ⟨-, rfl⟩ | ⟨v, -, rfl⟩ | ⟨v, -, rfl⟩ | ⟨o, rfl⟩ | ⟨hb, -, -⟩ |
    ⟨-, hg, rfl⟩ | ⟨-, -, rfl⟩
  · exact absurd hp hne
  · exact absurd hp hne
  · exact absurd hp hne
  · exact absurd hp hne
  · exact absurd hp hne
  · exact absurd hp hne
  · exact absurd hp hb
  · exact ⟨hg, rfl⟩
  · exact absurd (completeError_phase _ _ _) hne

/-- An instruction that a step runs from IDLE and that leaves IDLE accepts a HASH: the micro-step is IDLE's own. -/
theorem run_leaves_idle {s t u : State} {i : Instr} (hf : fetch s = .run i u) (he : exec i u = .next t)
    (hp : s.phase = .idle) (hne : t.phase ≠ .idle) :
    ∃ r, u = { s with inputs := r } ∧ (∃ g, i = .cmdHash g) ∧ t = acceptHash u := by
  obtain ⟨r, rfl, hi | rfl⟩ := fetch_run hf
  · exact ⟨r, rfl, access_leaves_idle hi he hp hne⟩
  · rw [hp] at he
    cases he
    exact absurd rfl hne

theorem hostStore_phase (s : State) (a : Addr) (v : Byte) : (hostStore s a v).phase = s.phase := by
  obtain ⟨m, d, ri, ro, e, -⟩ := hostStore_cases s a v
  rw [e]

theorem hostPost_phase (s : State) (a : Addr) (v : Byte) : (hostPost s a v).phase = s.phase := by
  obtain ⟨ri, e, -⟩ := hostPost_cases s a v
  rw [e]

theorem hostPerform_phase (s : State) : (hostPerform s).phase = s.phase := by
  rcases hostPerform_cases s with e | ⟨a, v, rest, -, e⟩
  · rw [e]
  · rw [e, hostStore_phase]

theorem hostLoad_phase (s : State) (a : Addr) : (hostLoad s a).phase = s.phase := by
  rcases hostLoad_cases s a with ⟨b, d, e⟩ | ⟨e, -⟩
  · rw [e]
  · rw [e, waitByte_phase]

/-- A turn that is no instruction resets PHASE to IDLE, or leaves it. -/
theorem moved_keeps_idle {s t : State} (h : fetch s = .moved t) (hp : s.phase = .idle) : t.phase = .idle := by
  obtain ⟨x, rest, -, hx⟩ := fetch_moved h
  rcases hx with ⟨-, rfl⟩ | ⟨a, v, -, rfl⟩ | ⟨a, v, -, rfl⟩ | ⟨-, rfl⟩ | ⟨a, -, rfl⟩
  · exact resetEngine_phase _
  · exact (hostStore_phase _ a v).trans hp
  · exact (hostPost_phase _ a v).trans hp
  · exact (hostPerform_phase _).trans hp
  · exact (hostLoad_phase _ a).trans hp

/-- Settles O46: of the instructions only an accepted HASH leaves IDLE, and of the other turns none does. -/
theorem onlyAcceptedHashLeavesIdle : Obligations.OnlyAcceptedHashLeavesIdle := by
  intro s t h hp hne
  rcases step_next h with ⟨i, u, hf, he⟩ | hm
  · obtain ⟨r, rfl, ⟨g, rfl⟩, rfl⟩ := run_leaves_idle hf he hp hne
    exact ⟨⟨g, _, hf⟩, acceptHash_leaves_idle hne⟩
  · exact absurd (moved_keeps_idle hm hp) hne

/-! ### What the host cannot see. -/

/-- The state that no register access shows (60_exceptions.md R246), of PHASE all but BUSY. -/
structure Hidden where
  phase : Phase
  t : Fin 64
  kw : Fin 32
  blk : Vector Byte 64
  w : Vector Word 64
  wr : Vector Word 8

/-- The state s with this hidden state in place of its own. -/
def State.withHidden (s : State) (x : Hidden) : State :=
  { s with phase := x.phase, t := x.t, kw := x.kw, blk := x.blk, w := x.w, wr := x.wr }

/-- The hidden state is as BUSY as s. -/
abbrev Hidden.Fits (x : Hidden) (s : State) : Prop := x.phase = .idle ↔ s.phase = .idle

section
variable {s t : State} {x : Hidden}

theorem withHidden_statusWord (hx : x.Fits s) : (s.withHidden x).statusWord = s.statusWord := by
  have hb : (s.withHidden x).busy = s.busy := by rw [Bool.eq_iff_iff, busy_eq_true, busy_eq_true]; exact not_congr hx
  rw [State.statusWord, hb]
  rfl

/-- accept_hash() decides by the operand registers. -/
theorem acceptHash_withHidden (s : State) (x : Hidden) :
    ∃ y : Hidden, y.Fits (acceptHash s) ∧ acceptHash (s.withHidden x) = (acceptHash s).withHidden y := by
  rcases accept_cases s with ⟨hr, e⟩ | ⟨hr, e⟩ <;> rw [e]
  · exact ⟨{ x with phase := .frame, t := 0, kw := 0 }, Iff.rfl, if_pos hr⟩
  · exact ⟨{ x with phase := .idle }, Iff.rfl, if_neg (Bool.not_eq_true _ ▸ hr)⟩

/-- A register access reads BUSY of the hidden state alone: with another as BUSY it answers the same, but for the hidden state
after it (44_driver.md R184). -/
theorem exec_withHidden {i : Instr} (ha : i.isAccess = true) (hx : x.Fits s) (h : exec i s = .next t) :
    ∃ y : Hidden, y.Fits t ∧ exec i (s.withHidden x) = .next (t.withHidden y) := by
  cases i with
  | cmdHash g =>
    by_cases hp : s.phase = .idle
    · rw [exec_cmdHash_idle hp] at h
      cases h
      obtain ⟨y, hy, e⟩ := acceptHash_withHidden s x
      exact ⟨y, hy, by rw [exec_cmdHash_idle (s := s.withHidden x) (hx.2 hp), e]⟩
    · rw [exec_cmdHash_busy hp] at h
      cases h
      exact ⟨x, hx, exec_cmdHash_busy (s := s.withHidden x) (mt hx.1 hp) g⟩
  | cmdIllegal c g =>
    by_cases hp : s.phase = .idle
    · rw [exec_cmdIllegal_idle hp] at h
      cases h
      exact ⟨{ x with phase := .idle }, Iff.rfl, exec_cmdIllegal_idle (s := s.withHidden x) (hx.2 hp) c g⟩
    · rw [exec_cmdIllegal_busy hp] at h
      cases h
      exact ⟨x, hx, exec_cmdIllegal_busy (s := s.withHidden x) (mt hx.1 hp) c g⟩
  | rdHash j =>
    by_cases hp : s.phase = .idle
    · rw [exec_rdHash_idle hp] at h
      cases h
      exact ⟨x, hx, exec_rdHash_idle (s := s.withHidden x) (hx.2 hp) j⟩
    · rw [exec_rdHash_busy hp] at h
      cases h
      exact ⟨x, hx, exec_rdHash_busy (s := s.withHidden x) (mt hx.1 hp) j⟩
  | rdStatus =>
    cases h
    exact ⟨x, hx, by rw [exec_rdStatus, execRdStatus, withHidden_statusWord hx]; rfl⟩
  | misaligned1 | misaligned2 | misaligned3 => cases h
  | idle | frame | sched | round | fold | write | phaseRsvd6 | phaseRsvd7 => cases ha
  | _ => cases h; exact ⟨x, hx, rfl⟩

end

/-- Settles O51: the access leaves two states that differ in the hidden state alone, both BUSY or both not. -/
theorem hiddenStateIsNotVisible : Obligations.HiddenStateIsNotVisible := by
  intro i s t p τ κ b x y ha hp h
  obtain ⟨z, hz, e⟩ := exec_withHidden (x := ⟨p, τ, κ, b, x, y⟩) ha hp h
  exact ⟨_, e, rfl, withHidden_statusWord hz, rfl, rfl, rfl, rfl, rfl, rfl⟩

end Sys2Proof.Machine
end

section
/-! Statements of 70_reset_and_hazards.md: the reset values, and the reset that falls between two steps. -/

namespace Sys2Proof.Machine

open Sys2Proof.Safety

/-- IRQ follows IE, so it is 0 where IE is 0 (10_state.md R45). -/
theorem irq_eq_false_of_ie {s : State} (h : s.ie = false) : s.irq = false := by rw [State.irq, h, Bool.false_and]

/-- A reset turn is taken in every legal phase, and the state after it is the reset engine's (70_reset_and_hazards.md R260). -/
theorem step_reset {s : State} {rest : List Input} (hin : s.inputs = .reset :: rest) (h6 : s.phase ≠ .unused6)
    (h7 : s.phase ≠ .unused7) : step s = .next (resetEngine { s with inputs := rest }) :=
  step_of_moved h6 h7 hin rfl

/-- The abandoned operation writes no more, so the reads that wait get the bytes the memory holds (70_reset_and_hazards.md
R262). -/
theorem resetEngine_answers_waiting (s : State) :
    (resetEngine s).mdata = if s.waiting = [] then s.mdata else s.waiting.map fun a => (a, s.byteAt a) := by
  simp only [resetEngine_mdata, answerWaiting_mdata, List.isEmpty_iff]

/-- Settles O41: field by field; IRQ follows from IE. -/
theorem resetValues : Obligations.ResetValues :=
  ⟨Vector.get_replicate 8 0#32, rfl, rfl, rfl, rfl, rfl, rfl, by decide, rfl, rfl, rfl, rfl, irq_eq_false_of_ie rfl⟩

/-- Settles O42: the step is `resetEngine` alone, whose fields are the reset values, the memory's and the platform's own. -/
theorem resetEventAbandonsOperation : Obligations.ResetEventAbandonsOperation := by
  intro s rest hin h6 h7
  refine ⟨_, step_reset hin h6 h7, ?h, resetEngine_cursor _, resetEngine_dstL _, resetEngine_phase _, resetEngine_t _,
    resetEngine_kw _, resetEngine_ie _, resetEngine_status _, resetEngine_errAddr _, resetEngine_ops _,
    irq_eq_false_of_ie (resetEngine_ie _), resetEngine_mem _, resetEngine_platform _, resetEngine_inputs _,
    resetEngine_waiting _, resetEngine_answers_waiting _⟩
  case h => exact fun i => by rw [resetEngine_h, Vector.get_replicate]

/-- Settles O43: the engine is IDLE, no error is recorded and no read waits. -/
theorem resetMeetsEngineInvariant : Obligations.ResetMeetsEngineInvariant :=
  engineInv_of_idle rfl Memory.wf_reset (by decide) rfl

end Sys2Proof.Machine
end
